-- ==== Sys2Proof/Word.lean ====
section
/-!
DEFINITION. The data word of the core (00_scope.md R9) and the byte of the fixtures (20_memory.md R53).
-/

namespace Sys2Proof

/-- A word: an unsigned 32-bit value, bit 0 the least significant (R9). -/
abbrev Word := BitVec 32

/-- A byte of a key or block fixture (R53). -/
abbrev Byte := BitVec 8

/-- The 130-bit command word `CW = cmd_op ++ cmd_data` (30_encoding.md R70). -/
abbrev CommandWord := BitVec 130

end Sys2Proof
end

