-- ==== Sys2Proof/Syntax.lean ====
section
/-!
DEFINITION. The command set: one constructor per row of spec/opcode_table.json (30_encoding.md R72, R81).
Every operand is a whole 32-bit word (R77); the `ign` field of format B has no meaning and is no operand
(R75, R78).
-/

namespace Sys2Proof

/-- The commands of the core and the reserved code, operands in tuple order (30_encoding.md R84). -/
inductive Instr where
  /-- `SETKEY k0, k1, k2, k3`: load the key (40_key_schedule.md R100). -/
  | setkey (k0 k1 k2 k3 : Word)
  /-- `ENCRYPT v0, v1`: start an encryption (42_encrypt.md R150). -/
  | encrypt (v0 v1 : Word)
  /-- `DECRYPT v0, v1`: start a decryption (43_decrypt.md R170). -/
  | decrypt (v0 v1 : Word)
  /-- The reserved opcode `0b00`, what `decode` calls `Reserved` (30_encoding.md R78, R82). -/
  | reserved00
deriving DecidableEq, Repr

end Sys2Proof
end

