-- ==== Sys2Proof/WellFormed.lean ====
section
/-!
DEFINITION. Which instructions are commands a host may issue: the three commands with every operand value
(30_encoding.md R77, R83), and not the reserved code (R82).
-/

namespace Sys2Proof

/-- `i` is one of the three commands. Every operand value is legal (R77), so the one check is that the opcode
is not the reserved one (R82). -/
def Instr.wellFormed (i : Instr) : Bool :=
  match i with
  | .setkey _ _ _ _ => true
  | .encrypt _ _ => true
  | .decrypt _ _ => true
  | .reserved00 => false

end Sys2Proof
end

