-- ==== Sys2Proof/Decode.lean ====
section
/-!
DEFINITION. Decoding and encoding of the 130-bit command word (30_encoding.md R70 to R78). Decoding is total on
command words; a number that is no command word (a bit set above bit 129) is rejected by name.
-/

namespace Sys2Proof

/-- Why a number is no command word. -/
inductive DecodeError where
  /-- A bit above `CW[129]` is set: a command word has 130 bits (R70). -/
  | widerThanACommandWord
deriving DecidableEq, Repr

/-- `CW[129:128]`, the opcode (R71). -/
def opOf (cw : CommandWord) : BitVec 2 := cw.extractLsb' 128 2

/-- `CW[32*i + 31 : 32*i]`, word `i` of the operand (R52, R71). -/
def wordOf (cw : CommandWord) (i : Nat) : Word := cw.extractLsb' (32 * i) 32

/-- `decode(CW)` of R78: total, decided by the opcode alone. -/
def decode (cw : CommandWord) : Instr :=
  if opOf cw = 1#2 then .setkey (wordOf cw 0) (wordOf cw 1) (wordOf cw 2) (wordOf cw 3)
  else if opOf cw = 2#2 then .encrypt (wordOf cw 0) (wordOf cw 1)
  else if opOf cw = 3#2 then .decrypt (wordOf cw 0) (wordOf cw 1)
  else .reserved00

/-- Format K (R71): opcode, then `k3`, `k2`, `k1`, `k0` from the most significant word down. -/
def formatK (op : BitVec 2) (k0 k1 k2 k3 : Word) : CommandWord := op ++ k3 ++ k2 ++ k1 ++ k0

/-- Format B (R71): opcode, the ignored field, then `v1`, `v0`. -/
def formatB (op : BitVec 2) (ign : BitVec 64) (v0 v1 : Word) : CommandWord := op ++ ign ++ v1 ++ v0

/-- The word of an instruction, with zeros in the ignored field as a host should drive them (R75). The reserved
code is given with zeros in the bits that have no meaning. -/
def encode (i : Instr) : CommandWord :=
  match i with
  | .setkey k0 k1 k2 k3 => formatK 1#2 k0 k1 k2 k3
  | .encrypt v0 v1 => formatB 2#2 0#64 v0 v1
  | .decrypt v0 v1 => formatB 3#2 0#64 v0 v1
  | .reserved00 => formatB 0#2 0#64 0#32 0#32

/-- The opcode of an instruction (R72). -/
def Instr.opcode (i : Instr) : BitVec 2 :=
  match i with
  | .setkey _ _ _ _ => 1#2
  | .encrypt _ _ => 2#2
  | .decrypt _ _ => 3#2
  | .reserved00 => 0#2

/-- Decoding of a number: a command word is decoded, a number with a bit above 129 is rejected by name. -/
def decodeNumber (w : Nat) : Except DecodeError Instr :=
  if w < 2 ^ 130 then .ok (decode (BitVec.ofNat 130 w)) else .error .widerThanACommandWord

/-- What the decoder reads from the low `nbits` bits of `w`, every bit above them zero. The hardware has one
command word of 130 bits and stores none in memory (R50, R70), so bit `n` of `w` is `CW[n]`. DESIGN CHOICE: log
entry 13. -/
def decodeTableWord (nbits w : Nat) : Option Instr :=
  match decodeNumber (w % 2 ^ nbits) with
  | .ok i => some i
  | .error _ => none

end Sys2Proof
end

