-- ==== Sys2Proof/Machine/Types.lean ====
section
/-!
DEFINITION. The plain data the state is built from: the key and block register files, the phase, and
what crosses the ports at one rising edge of `clk`.
-/

namespace Sys2Proof

/-- The key register file `K[0..3]` (10_state.md R21), in tuple order. -/
structure Key where
  k0 : Word
  k1 : Word
  k2 : Word
  k3 : Word
deriving DecidableEq, Repr, Inhabited

/-- The block register file `V[0..1]` (10_state.md R24), in tuple order. -/
structure Block where
  v0 : Word
  v1 : Word
deriving DecidableEq, Repr, Inhabited

/-- `PHASE` (10_state.md R32). Its bit encoding is not observable and not specified, so it is an
enumeration (93_implementation_defined.md U8). -/
inductive Phase where
  /-- No operation in progress: a command can issue. -/
  | idle
  /-- An encrypt is running. -/
  | enc
  /-- A decrypt is running. -/
  | dec
  /-- The result is in `V` and offered on the result port. -/
  | done
deriving DecidableEq, Repr, Inhabited

/-- What a round works on: the two block words and `SUM`, the triple of `EncRound` and `DecRound`
(42_encrypt.md R152, 43_decrypt.md R172). -/
structure Work where
  v0  : Word
  v1  : Word
  sum : Word
deriving DecidableEq, Repr, Inhabited

/-- What the core's own rules do not decide at one rising edge of `clk`: the five input pins the host
drives (10_state.md R41), and whether the core's round step, if one is running, completes at this edge.
The last is no pin: the number of edges one round takes is open (00_scope.md R8, 70_reset_and_hazards.md
R239). DESIGN CHOICE: log entries 1 and 3. -/
structure Edge where
  rst      : Bool
  cmdValid : Bool
  cmdOp    : BitVec 2
  cmdData  : BitVec 128
  resReady : Bool
  roundDue : Bool
deriving DecidableEq, Repr, Inhabited

/-- The four output ports (10_state.md R41). -/
structure Outputs where
  cmdReady : Bool
  resValid : Bool
  resData  : BitVec 64
  keyValid : Bool
deriving DecidableEq, Repr, Inhabited

end Sys2Proof
end

