-- ==== Sys2Proof/Machine/Operands.lean ====
section
/-!
DEFINITION. How keys, blocks, results and byte fixtures are packed (20_memory.md R52 to R54, 30_encoding.md R70 to
R80). The core itself sees only words.
-/

namespace Sys2Proof.Machine

/-- `CW = cmd_op ++ cmd_data`, the command sampled at an edge (R70). -/
def commandOf (e : Edge) : CommandWord := e.cmdOp ++ e.cmdData

/-- A key on a 128-bit vector, word `i` at bits `[32*i + 31 : 32*i]` (R52, R73). -/
def keyVector (k : Key) : BitVec 128 := k.k3 ++ k.k2 ++ k.k1 ++ k.k0

/-- The key on `cmd_data` (R73). -/
def keyOfVector (d : BitVec 128) : Key :=
  { k0 := d.extractLsb' 0 32, k1 := d.extractLsb' 32 32, k2 := d.extractLsb' 64 32, k3 := d.extractLsb' 96 32 }

/-- A block on a 64-bit vector, `V[1] ++ V[0]` (R52): the result word `RW` of R76. -/
def blockVector (b : Block) : BitVec 64 := b.v1 ++ b.v0

/-- The block on a 64-bit vector (R74, R76). -/
def blockOfVector (d : BitVec 64) : Block := { v0 := d.extractLsb' 0 32, v1 := d.extractLsb' 32 32 }

/-- A word from four bytes of a fixture, the first byte the least significant (R53, 90_conflicts.md C4). -/
def wordOfBytes (b0 b1 b2 b3 : Byte) : Word := b3 ++ b2 ++ b1 ++ b0

/-- Byte `j` of a word, byte 0 the least significant (R53). -/
def byteOfWord (w : Word) (j : Nat) : Byte := w.extractLsb' (8 * j) 8

/-- A key from a 16-byte fixture (R53). -/
def keyOfBytes (b : Vector Byte 16) : Key :=
  { k0 := wordOfBytes b[0] b[1] b[2] b[3], k1 := wordOfBytes b[4] b[5] b[6] b[7],
    k2 := wordOfBytes b[8] b[9] b[10] b[11], k3 := wordOfBytes b[12] b[13] b[14] b[15] }

/-- A block from an 8-byte fixture (R53). -/
def blockOfBytes (b : Vector Byte 8) : Block :=
  { v0 := wordOfBytes b[0] b[1] b[2] b[3], v1 := wordOfBytes b[4] b[5] b[6] b[7] }

/-- The 8 bytes of a block, the inverse map (R53). -/
def bytesOfBlock (b : Block) : Vector Byte 8 :=
  #v[byteOfWord b.v0 0, byteOfWord b.v0 1, byteOfWord b.v0 2, byteOfWord b.v0 3,
     byteOfWord b.v1 0, byteOfWord b.v1 1, byteOfWord b.v1 2, byteOfWord b.v1 3]

end Sys2Proof.Machine
end

