-- ==== Sys2Proof/Machine/Constants.lean ====
section
/-!
DEFINITION. The fixed values of the cipher (00_scope.md R7), "not tunable".
-/

namespace Sys2Proof.Machine

/-- `DELTA`, the additive round constant. -/
def delta : Word := 0x9E3779B9#32

/-- `ROUNDS`, the number of rounds of every operation. -/
def rounds : Nat := 32

/-- `SUM_ENC_INIT`, `SUM` at the start of an encrypt. -/
def sumEncInit : Word := 0x00000000#32

/-- `SUM_DEC_INIT`, `SUM` at the start of a decrypt. -/
def sumDecInit : Word := 0xC6EF3720#32

/-- `SHL`, the left-shift amount of the round function. -/
def shlAmount : Nat := 4

/-- `SHR`, the right-shift amount of the round function. -/
def shrAmount : Nat := 5

/-- `IDX_SHIFT`, the right-shift amount of the second key index. -/
def idxShift : Nat := 11

/-- `IDX_MASK`, the mask of both key indices. -/
def idxMask : Word := 3#32

end Sys2Proof.Machine
end

