-- ==== Sys2Proof/Machine/Arith.lean ====
section
/-!
DEFINITION. The arithmetic primitives on words (00_scope.md R10, 41_round_function.md R120 to R125). All total,
none has a carry, borrow or overflow output (R126).
-/

namespace Sys2Proof.Machine

/-- `add32(a, b) = (a + b) mod 2^32` (R120). -/
def add32 (a b : Word) : Word := a + b

/-- `sub32(a, b) = (a - b) mod 2^32` (R121). -/
def sub32 (a b : Word) : Word := a - b

/-- `shl32(x, n) = (x * 2^n) mod 2^32`, a shift and not a rotate (R123, 90_conflicts.md C8). -/
def shl32 (x : Word) (n : Nat) : Word := x <<< n

/-- `shr32(x, n) = floor(x / 2^n)`, a logical shift (R124). -/
def shr32 (x : Word) (n : Nat) : Word := x >>> n

/-- `xor32(a, b)`, bitwise exclusive or (R125). -/
def xor32 (a b : Word) : Word := a ^^^ b

/-- `and32(a, b)`, bitwise and (R125). -/
def and32 (a b : Word) : Word := a &&& b

/-- `repeat n times: x <- f x` of the algorithms R151 and R171. -/
def repeatTimes {α : Type} (f : α → α) (n : Nat) (x : α) : α :=
  match n with
  | 0 => x
  | m + 1 => repeatTimes f m (f x)

end Sys2Proof.Machine
end

