-- ==== Sys2Proof/Machine/KeySchedule.lean ====
section
/-!
DEFINITION. The key schedule (40_key_schedule.md): the two key indices, the indexed key read, the subkeys and the
values of `SUM`. There is no expanded key (R101); subkeys are computed when used and stored nowhere (R106).
-/

namespace Sys2Proof.Machine

/-- `idxA(s) = and32(s, 3) = s[1:0]` (R103). -/
def idxA (s : Word) : BitVec 2 := (and32 s idxMask).setWidth 2

/-- `idxB(s) = and32(shr32(s, 11), 3) = s[12:11]` (R104). -/
def idxB (s : Word) : BitVec 2 := (and32 (shr32 s idxShift) idxMask).setWidth 2

/-- `K[i]` for a 2-bit index, which always names one of the four registers (R105). -/
def keyRead (k : Key) (i : BitVec 2) : Word :=
  if i = 0#2 then k.k0 else if i = 1#2 then k.k1 else if i = 2#2 then k.k2 else k.k3

/-- `SKA(s) = add32(s, K[idxA(s)])` (R106). -/
def ska (k : Key) (s : Word) : Word := add32 s (keyRead k (idxA s))

/-- `SKB(s) = add32(s, K[idxB(s)])` (R106). -/
def skb (k : Key) (s : Word) : Word := add32 s (keyRead k (idxB s))

/-- `S[i] = (i * DELTA) mod 2^32` (R107). -/
def sumAt (i : Nat) : Word := BitVec.ofNat 32 (i * delta.toNat)

end Sys2Proof.Machine
end

