-- ==== Sys2Proof/Machine/Round.lean ====
section
/-!
DEFINITION. The round function, the six half-round micro-operations and the two rounds (41_round_function.md R128
to R135, 42_encrypt.md R152, 43_decrypt.md R172), in reading (a) of 90_conflicts.md C1.
-/

namespace Sys2Proof.Machine

/-- `MIX(x) = add32(xor32(shl32(x, 4), shr32(x, 5)), x)` (R128). -/
def mix (x : Word) : Word := add32 (xor32 (shl32 x shlAmount) (shr32 x shrAmount)) x

/-- `F(x, sk) = xor32(MIX(x), sk)` (R129). -/
def roundF (x sk : Word) : Word := xor32 (mix x) sk

/-- `ENC_A`: `V[0] <- add32(V[0], F(V[1], SKA(SUM)))` (R130). -/
def encA (k : Key) (w : Work) : Work := { w with v0 := add32 w.v0 (roundF w.v1 (ska k w.sum)) }

/-- `ENC_S`: `SUM <- add32(SUM, DELTA)` (R131). -/
def encS (w : Work) : Work := { w with sum := add32 w.sum delta }

/-- `ENC_B`: `V[1] <- add32(V[1], F(V[0], SKB(SUM)))` (R132). -/
def encB (k : Key) (w : Work) : Work := { w with v1 := add32 w.v1 (roundF w.v0 (skb k w.sum)) }

/-- `DEC_B`: `V[1] <- sub32(V[1], F(V[0], SKB(SUM)))` (R133). -/
def decB (k : Key) (w : Work) : Work := { w with v1 := sub32 w.v1 (roundF w.v0 (skb k w.sum)) }

/-- `DEC_S`: `SUM <- sub32(SUM, DELTA)` (R134). -/
def decS (w : Work) : Work := { w with sum := sub32 w.sum delta }

/-- `DEC_A`: `V[0] <- sub32(V[0], F(V[1], SKA(SUM)))` (R135). -/
def decA (k : Key) (w : Work) : Work := { w with v0 := sub32 w.v0 (roundF w.v1 (ska k w.sum)) }

/-- `EncRound(K, (v0, v1, s))`: `ENC_A`, then `ENC_S`, then `ENC_B` (R152, R154). -/
def encRound (k : Key) (w : Work) : Work := encB k (encS (encA k w))

/-- `DecRound(K, (v0, v1, s))`: `DEC_B`, then `DEC_S`, then `DEC_A` (R172, R174). -/
def decRound (k : Key) (w : Work) : Work := decA k (decS (decB k w))

end Sys2Proof.Machine
end

