-- ==== Sys2Proof/Config.lean ====
section
/-!
DEFINITION. The free values: what the spec leaves unspecified (00_scope.md R8, 93_implementation_defined.md
U1 to U3, U6, U9). None has a body, so nothing can be proved of a value of one. Each takes the number of the
rising edge at which it is drawn, so that two draws of one run need not agree (R12), and those drawn in a
running machine also take the register contents an implementation might show or keep.
-/

namespace Sys2Proof

/-- `K_RESET` (10_state.md R44): what a reset step at an edge leaves in `K`, which may depend on the old key
(70_reset_and_hazards.md R222: an implementation may clear the key or leave it). DESIGN CHOICE: log entry 4. -/
opaque Config.kReset : Nat → Key → Key

/-- `V_RESET` (10_state.md R44): what a reset step at an edge leaves in `V`. DESIGN CHOICE: log entry 4. -/
opaque Config.vReset : Nat → Block → Block

/-- `SUM_RESET` (10_state.md R44): what a reset step at an edge leaves in `SUM`. DESIGN CHOICE: log entry 4. -/
opaque Config.sumReset : Nat → Word → Word

/-- `RND_RESET` (10_state.md R44): what a reset step at an edge leaves in `RND`. DESIGN CHOICE: log entry 4. -/
opaque Config.rndReset : Nat → BitVec 6 → BitVec 6

/-- `RES_IDLE` (10_state.md R43): what `res_data` shows while `res_valid = 0`, possibly different at every edge. It may
depend on the phase and on the block registers (an implementation may show the last result or the running intermediate
block), not on `K`, `SUM` or `RND`, which no port shows (R22, R28, R37). DESIGN CHOICE: log entry 5. -/
opaque Config.resIdle : Nat → Phase → Block → BitVec 64

/-- The pace of the core past the end of the host's list (00_scope.md R8 `CYCLES_PER_ROUND`, 70_reset_and_hazards.md
R239: the number of edges a round takes is open): how many edges pass before each edge at which a round can complete, as
many as the value says before the first and between that one and the next. It is one sequence for all instances of a
platform, so two at equal edge numbers past the ends of their lists keep the same pace, where 60_exceptions.md R206 is
silent. DESIGN CHOICE: log entry 2. -/
opaque Config.waitEdges : Nat → Nat

/-- `K` before the first reset step (70_reset_and_hazards.md R223). DESIGN CHOICE: log entry 6. -/
opaque Config.kPowerUp : Nat → Key

/-- `V` before the first reset step (R223). DESIGN CHOICE: log entry 6. -/
opaque Config.vPowerUp : Nat → Block

/-- `SUM` before the first reset step (R223). DESIGN CHOICE: log entry 6. -/
opaque Config.sumPowerUp : Nat → Word

/-- `RND` before the first reset step (R223). DESIGN CHOICE: log entry 6. -/
opaque Config.rndPowerUp : Nat → BitVec 6

/-- `PHASE` before the first reset step (R223). DESIGN CHOICE: log entry 6. -/
opaque Config.phasePowerUp : Nat → Phase

/-- `KEYVALID` before the first reset step (R223). DESIGN CHOICE: log entry 6. -/
opaque Config.keyValidPowerUp : Nat → Bool

/-- The four outputs before the first reset step (R223: every output is unspecified). DESIGN CHOICE: log
entry 6. -/
opaque Config.outputsPowerUp : Nat → Outputs

end Sys2Proof
end

