-- ==== Sys2Proof/Machine/State.lean ====
section
/-!
DEFINITION. The state of one instance of the core (10_state.md R20), the machine right after reset (R44), and the
reasons a step stops (60_exceptions.md R190, R193).
-/

namespace Sys2Proof.Machine

/-- The complete state of one instance (R20), and four fields of the model's own: the host's coming pin samples,
the number of the edge, the results the host has received, and whether a reset step has happened. -/
structure State where
  /-- `K[0..3]` (R21). -/
  k : Key
  /-- `V[0..1]` (R24). -/
  v : Block
  /-- `SUM` (R28). -/
  sum : Word
  /-- `RND` (R31). -/
  rnd : BitVec 6
  /-- `PHASE` (R32). -/
  phase : Phase
  /-- `KEYVALID` (R33). -/
  keyValid : Bool
  /-- The model's own: what the host drives at the coming rising edges, the next one first. Log entry 1. -/
  inputs : List Edge
  /-- The model's own: how many rising edges there have been, the index of the free values. Log entry 11. -/
  edge : Nat
  /-- The model's own: the results the host has taken, oldest first (R237). Log entry 11. -/
  taken : List (BitVec 64)
  /-- The model's own: a reset step has happened since power-up (R223). Log entry 6. -/
  resetSeen : Bool
deriving DecidableEq, Repr

/-- The core raises no fault: it has no exception and no error path (R190), so there is no constructor. Safe: nothing
can be proved of a step that does not exist. -/
inductive Fault where
deriving DecidableEq, Repr

/-- Why a step has no next state: the refused situations of R193. -/
inductive Refusal where
  /-- An arm of `exec` that has no meaning yet. No arm is left so. Safe. -/
  | notModelled (mnemonic : String)
  /-- Raised by the issue of opcode `0b00`, which no source gives a meaning (30_encoding.md R82). Safe. -/
  | reservedOpcode
  /-- Raised by the issue of `ENCRYPT` or `DECRYPT` while `KEYVALID = 0` (60_exceptions.md R192). Safe. -/
  | keyNotLoaded
  /-- Raised by a command offered or a result accepted before the first reset step after power-up
  (70_reset_and_hazards.md R223). Safe. -/
  | beforeFirstReset
deriving DecidableEq, Repr

/-- The machine after power-up and before the first reset step: every piece of state is unspecified (R223). -/
def State.powerUp : State :=
  { k := Config.kPowerUp 0, v := Config.vPowerUp 0, sum := Config.sumPowerUp 0, rnd := Config.rndPowerUp 0,
    phase := Config.phasePowerUp 0, keyValid := Config.keyValidPowerUp 0,
    inputs := [], edge := 0, taken := [], resetSeen := false }

/-- The machine right after its first reset step (R44): `PHASE = IDLE`, `KEYVALID = 0`, and `K`, `V`, `SUM`, `RND` the
unspecified `K_RESET`, `V_RESET`, `SUM_RESET`, `RND_RESET`, which a model must not set to zero (R222). DESIGN CHOICE:
log entry 4. -/
def State.reset : State :=
  { k := Config.kReset 1 (Config.kPowerUp 0), v := Config.vReset 1 (Config.vPowerUp 0),
    sum := Config.sumReset 1 (Config.sumPowerUp 0), rnd := Config.rndReset 1 (Config.rndPowerUp 0),
    phase := .idle, keyValid := false,
    inputs := [], edge := 1, taken := [], resetSeen := true }

end Sys2Proof.Machine
end

