-- ==== Sys2Proof/Machine/Ops.lean ====
section
/-!
DEFINITION. The named operations on the state. The core has no memory (20_memory.md R50), takes no exception and
returns from none (60_exceptions.md R190, R199, R200), so there is no memory operation and no exception entry here;
what stands where a fault would is the issue rule of `issueWhenReady`.
-/

namespace Sys2Proof.Machine

/-- An edge at which the host drives nothing (no reset, no command, no take) and no round completes. -/
def quietEdge : Edge :=
  { rst := false, cmdValid := false, cmdOp := 0#2, cmdData := 0#128, resReady := false, roundDue := false }

/-- The number of the edge, past the end of the host's list, at which a round can complete for the `i`-th time. -/
def roundEnd : Nat → Nat
  | 0 => Config.waitEdges 0
  | i + 1 => roundEnd i + 1 + Config.waitEdges (i + 1)

/-- Whether a running round completes at an edge past the end of the host's list. Every pace that is fair
(70_reset_and_hazards.md R240) is one for some value of `Config.waitEdges`, and none other, so no number of edges is
built in (R239). All instances of a platform share the sequence: two at equal edge numbers past the ends of their lists
complete rounds at the same edges, where 60_exceptions.md R206 is silent. DESIGN CHOICE: log entry 2. -/
def roundDueAt (edge : Nat) : Bool := (List.range (edge + 1)).any fun i => decide (roundEnd i = edge)

/-- The pins at the next rising edge. At an edge the list of `inputs` does not reach the host drives nothing, and a
running round completes at the core's own free but fair pace. DESIGN CHOICE: log entry 2. -/
def State.pins (s : State) : Edge :=
  match s.inputs with
  | [] => { quietEdge with roundDue := roundDueAt s.edge }
  | e :: _ => e

/-- A rising edge passes: its pin sample is used up and the edge counter moves on. -/
def State.tick (s : State) : State := { s with inputs := s.inputs.tail, edge := s.edge + 1 }

/-- Write all four key registers together and set `KEYVALID` (40_key_schedule.md R100, 20_memory.md R57). -/
def State.loadKey (s : State) (key : Key) : State := { s with k := key, keyValid := true }

/-- Start an operation: `V`, `SUM`, `RND` and `PHASE` in one step (42_encrypt.md R150, 43_decrypt.md R170). -/
def State.startOperation (s : State) (direction : Phase) (b : Block) (sum : Word) : State :=
  { s with v := b, sum := sum, rnd := 0#6, phase := direction }

/-- The working registers a round reads. -/
def State.work (s : State) : Work := { v0 := s.v.v0, v1 := s.v.v1, sum := s.sum }

/-- Write a round's result into `V` and `SUM`. -/
def State.setWork (s : State) (w : Work) : State := { s with v := { v0 := w.v0, v1 := w.v1 }, sum := w.sum }

/-- The count at the end of a round step: `RND <- RND + 1`, and `PHASE <- DONE` if that makes 32 (R154, R174). -/
def State.countRound (s : State) : State :=
  let n := s.rnd + 1#6
  { s with rnd := n, phase := if n = 32#6 then .done else s.phase }

/-- Take: the host receives `V[1] ++ V[0]` and `PHASE <- IDLE`; `V`, `SUM`, `RND` are not changed (10_state.md R43). -/
def State.takeResult (s : State) : State := { s with taken := s.taken ++ [blockVector s.v], phase := .idle }

/-- The reset step (70_reset_and_hazards.md R220, 10_state.md R44): `PHASE <- IDLE`, `KEYVALID <- 0`, the other four
unspecified. DESIGN CHOICE: log entry 4. -/
def State.resetStep (s : State) : State :=
  { s with k := Config.kReset s.edge s.k, v := Config.vReset s.edge s.v, sum := Config.sumReset s.edge s.sum,
           rnd := Config.rndReset s.edge s.rnd, phase := .idle, keyValid := false, resetSeen := true }

/-- An edge before the first reset step at which the host does nothing: everything stays unspecified (R223), drawn
anew. DESIGN CHOICE: log entry 6. -/
def State.stayUnspecified (s : State) : State :=
  { s with k := Config.kPowerUp s.edge, v := Config.vPowerUp s.edge, sum := Config.sumPowerUp s.edge,
           rnd := Config.rndPowerUp s.edge, phase := Config.phasePowerUp s.edge,
           keyValid := Config.keyValidPowerUp s.edge }

/-- The issue of a command whose effect is `effect` (10_state.md R40, R42): refused before the first reset (R223);
held off, changing no state, while `PHASE` is not `IDLE` (R42); refused if it needs a key and none is loaded (R192);
else the command has its effect. -/
def issueWhenReady (s : State) (needsKey : Bool) (effect : State) : Host.Outcome State Fault Refusal :=
  if s.resetSeen = false then .refused .beforeFirstReset
  else if s.phase ≠ .idle then .next s
  else if needsKey = true ∧ s.keyValid = false then .refused .keyNotLoaded
  else .next effect

end Sys2Proof.Machine
end

