-- ==== Sys2Proof/Machine/Decrypt.lean ====
section
/-!
DEFINITION. The meaning of `DECRYPT` (43_decrypt.md R170) and the core's decrypt round step (R174).
-/

namespace Sys2Proof.Machine

/-- `DECRYPT v0, v1`: `V <- (v0, v1)`, `SUM <- 0xC6EF3720`, `RND <- 0`, `PHASE <- DEC`; `K` and `KEYVALID` not written.
Issues while `PHASE = IDLE` and `KEYVALID = 1` (R170), refused while `KEYVALID = 0` (60_exceptions.md R192). -/
def execDecrypt (v0 v1 : Word) (s : State) : Host.Outcome State Fault Refusal :=
  issueWhenReady s true (s.startOperation .dec { v0 := v0, v1 := v1 } sumDecInit)

/-- The decrypt round step: `DecRound` on `V` and `SUM`, then the count (R174). -/
def State.decRoundStep (s : State) : State := (s.setWork (decRound s.k s.work)).countRound

end Sys2Proof.Machine
end

