-- ==== Sys2Proof/Machine/Encrypt.lean ====
section
/-!
DEFINITION. The meaning of `ENCRYPT` (42_encrypt.md R150) and the core's encrypt round step (R154).
-/

namespace Sys2Proof.Machine

/-- `ENCRYPT v0, v1`: `V <- (v0, v1)`, `SUM <- 0`, `RND <- 0`, `PHASE <- ENC`; `K` and `KEYVALID` not written. Issues
while `PHASE = IDLE` and `KEYVALID = 1` (R150), refused while `KEYVALID = 0` (60_exceptions.md R192). -/
def execEncrypt (v0 v1 : Word) (s : State) : Host.Outcome State Fault Refusal :=
  issueWhenReady s true (s.startOperation .enc { v0 := v0, v1 := v1 } sumEncInit)

/-- The encrypt round step: `EncRound` on `V` and `SUM`, then the count (R154). -/
def State.encRoundStep (s : State) : State := (s.setWork (encRound s.k s.work)).countRound

end Sys2Proof.Machine
end

