-- ==== Sys2Proof/Machine/KeyStore.lean ====
section
/-!
DEFINITION. The meaning of `SETKEY` (40_key_schedule.md R100).
-/

namespace Sys2Proof.Machine

/-- `SETKEY k0, k1, k2, k3`: `K <- (k0, k1, k2, k3)`, `KEYVALID <- 1`; `V`, `SUM`, `RND` not written, `PHASE` stays
`IDLE`. Issues while `PHASE = IDLE`, whether or not a key is loaded (R100). -/
def execSetkey (k0 k1 k2 k3 : Word) (s : State) : Host.Outcome State Fault Refusal :=
  issueWhenReady s false (s.loadKey { k0 := k0, k1 := k1, k2 := k2, k3 := k3 })

end Sys2Proof.Machine
end

