-- ==== Sys2Proof/Machine/Reserved.lean ====
section
/-!
DEFINITION. The reserved opcode `0b00` (30_encoding.md R82).
-/

namespace Sys2Proof.Machine

/-- The issue of opcode `0b00` is refused in every state (10_state.md R40: enabled never; R82). The step asks for it
only where the command issues, so the code offered while `cmd_ready = 0` stays harmless (R42, 60_exceptions.md R193).
DEDUCED: log entry 8. -/
def execReserved00 (_s : State) : Host.Outcome State Fault Refusal := .refused .reservedOpcode

end Sys2Proof.Machine
end

