-- ==== Sys2Proof/Machine/Dispatch.lean ====
section
/-!
DEFINITION. `exec i s`: the issue of the command `i` on the command port in state `s`.
-/

namespace Sys2Proof.Machine

def exec (i : Instr) (s : State) : Host.Outcome State Fault Refusal :=
  match i with
  | .setkey k0 k1 k2 k3 => Sys2Proof.Machine.execSetkey k0 k1 k2 k3 s
  | .encrypt v0 v1 => Sys2Proof.Machine.execEncrypt v0 v1 s
  | .decrypt v0 v1 => Sys2Proof.Machine.execDecrypt v0 v1 s
  | .reserved00 => Sys2Proof.Machine.execReserved00 s

end Sys2Proof.Machine
end

