-- ==== Sys2Proof/Machine/HostMoves.lean ====
section
/-!
DEFINITION. What happens at a rising edge (10_state.md R40, R42, R43, 60_exceptions.md R197), and the host's moves and
pseudo-commands as edges (30_encoding.md R86).
-/

namespace Sys2Proof.Machine

/-- Which row of the step relation an edge takes (R40). -/
inductive EdgeEvent where
  /-- The reset step (R220). -/
  | reset
  /-- The command word `cw` issues (R42). -/
  | issue (cw : CommandWord)
  /-- The encrypt round step (R154). -/
  | encRound
  /-- The decrypt round step (R174). -/
  | decRound
  /-- The host takes the result (R43). -/
  | take
  /-- Nothing happens: no step is enabled, or the round running is not complete yet (R239). -/
  | hold
  /-- Before the first reset step, and the host does nothing (R223). -/
  | stillUnspecified
  /-- The host moves before the first reset step (R193, R223). -/
  | tooEarly
deriving DecidableEq, Repr

/-- What happens in `s` at an edge with pins `e`. Reset wins (R197); before the first reset the host may do nothing
else (R223); after it `PHASE` decides (R198), a command issuing only where `cmd_ready = 1` (R42) and a result being
taken only where `res_valid = 1` (R43). -/
def edgeEvent (s : State) (e : Edge) : EdgeEvent :=
  if e.rst = true then .reset
  else if s.resetSeen = false then
    if e.cmdValid = true ∨ e.resReady = true then .tooEarly else .stillUnspecified
  else
    match s.phase with
    | .idle => if e.cmdValid = true then .issue (commandOf e) else .hold
    | .enc => if e.roundDue = true then .encRound else .hold
    | .dec => if e.roundDue = true then .decRound else .hold
    | .done => if e.resReady = true then .take else .hold

/-- The host offers the command word `cw`. -/
def offerEdge (cw : CommandWord) : Edge :=
  { quietEdge with cmdValid := true, cmdOp := cw.extractLsb' 128 2, cmdData := cw.extractLsb' 0 128 }

/-- `TAKE` once `res_valid = 1`: the host can accept a result (R86, R43). -/
def takeEdge : Edge := { quietEdge with resReady := true }

/-- `RESET`: the host drives `rst = 1` over one rising edge (R86, R220). -/
def resetEdge : Edge := { quietEdge with rst := true }

/-- The host drives nothing, and the round that is running completes (R239). -/
def roundEdge : Edge := { quietEdge with roundDue := true }

/-- `SETKEY k`, the edges `gap`, the operation, the edges `wait` until `res_valid = 1` and as long after as the host
likes, and the take (R86). -/
def keyedOperationMoves (k : Key) (operation : Instr) (gap wait : List Edge) : List Edge :=
  offerEdge (encode (.setkey k.k0 k.k1 k.k2 k.k3)) :: gap ++ offerEdge (encode operation) :: wait ++ [takeEdge]

/-- `ENCRYPTK k ; b` (R86): `SETKEY`, `ENCRYPT`, `TAKE`. The edges between are arguments, so no pace of the rounds is
built in. Log entry 22. -/
def encryptkMoves (k : Key) (b : Block) (gap wait : List Edge) : List Edge :=
  keyedOperationMoves k (.encrypt b.v0 b.v1) gap wait

/-- `DECRYPTK k ; b` (R86): `SETKEY`, `DECRYPT`, `TAKE`, the same way. -/
def decryptkMoves (k : Key) (b : Block) (gap wait : List Edge) : List Edge :=
  keyedOperationMoves k (.decrypt b.v0 b.v1) gap wait

end Sys2Proof.Machine
end

