-- ==== Sys2Proof/Machine/Step.lean ====
section
/-!
DEFINITION. One step of the machine: one rising edge of `clk` (10_state.md R40 to R43), and where an instruction is put
for the next step to run it.
-/

namespace Sys2Proof.Machine

/-- One rising edge: the pins of the next edge decide which row of the step relation is taken. -/
def step (s : State) : Host.Outcome State Fault Refusal :=
  match edgeEvent s s.pins with
  | .reset => .next s.tick.resetStep
  | .issue cw => exec (decode cw) s.tick
  | .encRound => .next s.tick.encRoundStep
  | .decRound => .next s.tick.decRoundStep
  | .take => .next s.tick.takeResult
  | .hold => .next s.tick
  | .stillUnspecified => .next s.tick.stayUnspecified
  | .tooEarly => .refused .beforeFirstReset

/-- `s` with the command whose bits are `w` (its low `nbits` bits, zeros above) offered at the very next edge. The core
fetches nothing (10_state.md R30): a command runs when the host offers it at an edge where `cmd_ready = 1` and the core
has been reset, so those are set too (at `State.reset` they already hold). DESIGN CHOICE: log entry 12. -/
def State.withFetchWord (s : State) (nbits w : Nat) : State :=
  { s with inputs := offerEdge (BitVec.ofNat 130 (w % 2 ^ nbits)) :: s.inputs, phase := .idle, resetSeen := true }

end Sys2Proof.Machine
end

