-- ==== Sys2Proof/Machine/Platform.lean ====
section
/-!
DEFINITION. A platform of several instances (60_exceptions.md R206): each with its own state and its own ports, nothing
shared. A refused step of one instance refuses the whole run of the platform, so that the later steps of the others in
that schedule get no outcome: R206 is silent on it. DESIGN CHOICE: log entry 16. The number of instances is the length of the list (`N_INSTANCES`, 00_scope.md R8).
-/

namespace Sys2Proof.Machine

/-- One step of instance `i` of a platform; a number that names no instance does nothing. Where the step of the instance
is refused the step of the platform is. DESIGN CHOICE: log entry 16. -/
def platformStep (p : List State) (i : Nat) : Host.Outcome (List State) Fault Refusal :=
  match p[i]? with
  | none => .next p
  | some s =>
    match step s with
    | .next t => .next (p.set i t)
    | .fault r => .fault r
    | .refused r => .refused r

/-- The steps of the instances in the order of a schedule, up to the first refused one. DESIGN CHOICE: log entry 16. -/
def platformRun (p : List State) (schedule : List Nat) : Host.Outcome (List State) Fault Refusal :=
  match schedule with
  | [] => .next p
  | i :: rest =>
    match platformStep p i with
    | .next q => platformRun q rest
    | .fault r => .fault r
    | .refused r => .refused r

end Sys2Proof.Machine
end

