-- ==== Sys2Proof/Machine/Cipher.lean ====
section
/-!
DEFINITION. The normative functions `Enc` and `Dec` (42_encrypt.md R151, 43_decrypt.md R171), written from the
source's loop bodies and not from the micro-operations, so that the step machine's agreement with them (R155, R175)
says something.
-/

namespace Sys2Proof.Machine

/-- The body of the loop of R151, its three numbered sub-steps. -/
def encBody (k : Key) (w : Work) : Work :=
  let v0 := add32 w.v0 (xor32 (mix w.v1) (add32 w.sum (keyRead k ((and32 w.sum 3#32).setWidth 2))))
  let sum := add32 w.sum delta
  let v1 := add32 w.v1 (xor32 (mix v0) (add32 sum (keyRead k ((and32 (shr32 sum 11) 3#32).setWidth 2))))
  { v0 := v0, v1 := v1, sum := sum }

/-- The body of the loop of R171, its three numbered sub-steps. -/
def decBody (k : Key) (w : Work) : Work :=
  let v1 := sub32 w.v1 (xor32 (mix w.v0) (add32 w.sum (keyRead k ((and32 (shr32 w.sum 11) 3#32).setWidth 2))))
  let sum := sub32 w.sum delta
  let v0 := sub32 w.v0 (xor32 (mix v1) (add32 sum (keyRead k ((and32 sum 3#32).setWidth 2))))
  { v0 := v0, v1 := v1, sum := sum }

/-- `Enc(K, (v0, v1))` (R151). -/
def enc (k : Key) (b : Block) : Block :=
  let w := repeatTimes (encBody k) rounds { v0 := b.v0, v1 := b.v1, sum := sumEncInit }
  { v0 := w.v0, v1 := w.v1 }

/-- `Dec(K, (v0, v1))` (R171). -/
def dec (k : Key) (b : Block) : Block :=
  let w := repeatTimes (decBody k) rounds { v0 := b.v0, v1 := b.v1, sum := sumDecInit }
  { v0 := w.v0, v1 := w.v1 }

end Sys2Proof.Machine
end

