-- ==== Sys2Proof/Machine/Flags.lean ====
section
/-!
DEFINITION. The status of the core. There is no arithmetic flag (10_state.md R33, 41_round_function.md R126); the one
status bit is `KEYVALID`, and the whole status visible to the host is the output ports (R34, R41), functions of the
state, whose reading changes nothing (20_memory.md R58).
-/

namespace Sys2Proof.Machine

/-- `cmd_ready` after the first reset: 1 exactly when `PHASE = IDLE` (R41). -/
def State.cmdReady (s : State) : Bool := decide (s.phase = .idle)

/-- `res_valid` after the first reset: 1 exactly when `PHASE = DONE` (R41). -/
def State.resValid (s : State) : Bool := decide (s.phase = .done)

/-- `res_data` after the first reset: `V[1] ++ V[0]` while `res_valid = 1`, else the unspecified `RES_IDLE` (R43).
DESIGN CHOICE: log entry 5. -/
def State.resData (s : State) : BitVec 64 :=
  if s.resValid = true then blockVector s.v else Config.resIdle s.edge s.phase s.v

/-- The four output ports (R41). Before the first reset step every output is unspecified (R223). -/
def State.outputs (s : State) : Outputs :=
  if s.resetSeen = true then
    { cmdReady := s.cmdReady, resValid := s.resValid, resData := s.resData, keyValid := s.keyValid }
  else Config.outputsPowerUp s.edge

end Sys2Proof.Machine
end

