-- ==== Sys2Proof/Safety.lean ====
section
/-!
DEFINITION. The terms claims are stated in: the invariant of reachable states (10_state.md R45), the refused situations
(60_exceptions.md R193), the end and the outcome of a run (R237).
-/

namespace Sys2Proof.Machine

/-- The invariant of R45 and R29, of every state after the first reset step: what `RND`, `KEYVALID` and `SUM` are in each
phase. In `IDLE` nothing is said, and before the first reset nothing is. -/
def State.Inv (s : State) : Prop :=
  s.resetSeen = true →
    match s.phase with
    | .idle => True
    | .enc => s.rnd.toNat < 32 ∧ s.keyValid = true ∧ s.sum = sumAt s.rnd.toNat
    | .dec => s.rnd.toNat < 32 ∧ s.keyValid = true ∧ s.sum = sumAt (32 - s.rnd.toNat)
    | .done => s.rnd = 32#6 ∧ s.keyValid = true ∧ (s.sum = sumAt 32 ∨ s.sum = sumAt 0)

/-- The spec describes an edge with pins `e`: none of the three refused situations of 60_exceptions.md R193 is met. After
the first reset step these are the issue of opcode `0b00` and of an operation with `KEYVALID = 0`. Before it, that the
host may stay quiet and that an offered command or a raised `res_ready` is the refused move is the model's reading of
R223, DESIGN CHOICE: log entry 6. -/
def EdgeIsDescribed (s : State) (e : Edge) : Prop :=
  e.rst = true ∨
    (s.resetSeen = true ∧
      (s.phase = .idle → e.cmdValid = true → e.cmdOp ≠ 0#2 ∧ (e.cmdOp = 2#2 ∨ e.cmdOp = 3#2 → s.keyValid = true))) ∨
    (s.resetSeen = false ∧ e.cmdValid = false ∧ e.resReady = false)

/-- Fairness of the core (70_reset_and_hazards.md R240): past the end of the host's list there is always a later edge at
which a running round completes. -/
def PaceIsFair : Prop := ∀ n : Nat, ∃ m, n ≤ m ∧ roundDueAt m = true

/-- A run is over: the command stream is exhausted and `PHASE = IDLE` (R237). -/
def State.RunOver (s : State) : Prop := s.inputs = [] ∧ s.phase = .idle

/-- The observable outcome of a run: the taken results, in order, and `key_valid` (R237). -/
def State.outcome (s : State) : List (BitVec 64) × Bool := (s.taken, s.keyValid)

/-- Two states that differ at most in what no run may depend on (70_reset_and_hazards.md R222, 10_state.md R26): `K` while
`KEYVALID = 0`, and `V`, `SUM`, `RND` while `PHASE = IDLE`; before the first reset in any register at all. The counts of
edges may differ too, so the free values drawn in the two need not agree. -/
def State.SameButUnspecified (s t : State) : Prop :=
  s.inputs = t.inputs ∧ s.taken = t.taken ∧ s.resetSeen = t.resetSeen ∧
    (s.resetSeen = true →
      s.phase = t.phase ∧ s.keyValid = t.keyValid ∧ (s.keyValid = true → s.k = t.k) ∧
        (s.phase ≠ .idle → s.k = t.k ∧ s.v = t.v ∧ s.sum = t.sum ∧ s.rnd = t.rnd))

/-- Two states that agree in the control state: after the first reset in `PHASE` and `KEYVALID`, and while an operation
runs or its result is offered in `RND` and `SUM`; always in the number of results taken. Nothing unspecified is compared:
neither the contents of a register after a reset nor the counts of edges. -/
def State.SameControl (s t : State) : Prop :=
  s.resetSeen = t.resetSeen ∧ s.taken.length = t.taken.length ∧
    (s.resetSeen = true →
      s.phase = t.phase ∧ s.keyValid = t.keyValid ∧ (s.phase ≠ .idle → s.rnd = t.rnd ∧ s.sum = t.sum))

/-- Two edges that differ at most in the operand offered: same pins, same opcode. -/
def SameButOperand (e f : Edge) : Prop :=
  e.rst = f.rst ∧ e.cmdValid = f.cmdValid ∧ e.cmdOp = f.cmdOp ∧ e.resReady = f.resReady ∧ e.roundDue = f.roundDue

/-- The host offers the command `i` at the edge, without a reset. -/
def OffersCommand (e : Edge) (i : Instr) : Prop := e.rst = false ∧ e.cmdValid = true ∧ decode (commandOf e) = i

/-- The host can accept a result at the edge, without a reset. -/
def AcceptsResult (e : Edge) : Prop := e.rst = false ∧ e.resReady = true

/-- The edges in which the 32 rounds of an operation complete, the last at the last edge, however many edges each takes
and whatever else the pins do but reset. Log entry 3. -/
def RoundsComplete (es : List Edge) : Prop :=
  (∀ x ∈ es, x.rst = false) ∧
    ∃ (before : List Edge) (last : Edge), es = before ++ [last] ∧ last.roundDue = true ∧
      (before.filter (·.roundDue)).length = 31

/-- The command `i` issues at the next edge (10_state.md R42). -/
def State.Issues (s : State) (i : Instr) : Prop :=
  s.resetSeen = true ∧ s.phase = .idle ∧ OffersCommand s.pins i

/-- The result is taken at the next edge (10_state.md R43). -/
def State.Takes (s : State) : Prop := s.resetSeen = true ∧ s.phase = .done ∧ AcceptsResult s.pins

/-- No reset and no issue of a `SETKEY` at the next edge. -/
def State.LeavesKey (s : State) : Prop :=
  s.pins.rst = false ∧ ∀ k0 k1 k2 k3, ¬ s.Issues (.setkey k0 k1 k2 k3)

/-- No reset, no issue of a `SETKEY` and no take at the next edge. -/
def State.LeavesKeyAndResult (s : State) : Prop := s.LeavesKey ∧ ¬ s.Takes

/-- A run from the first state to the second, of any number of steps, each of them taken in a state that meets `P`. -/
inductive RunWithin (P : State → Prop) : State → State → Prop where
  | stay (s : State) : RunWithin P s s
  | go {s t u : State} (ok : P s) (first : step s = .next t) (rest : RunWithin P t u) : RunWithin P s u

end Sys2Proof.Machine
end

