-- ==== Sys2Proof/Certificates/Slice0/Obligations.lean ====
section
/-!
DEFINITION. The statements about the machine, one `def Obligations.<Name> : Prop` each, in the order of OBLIGATIONS.json.
A docstring names the rule of spec/ the statement formalises. `s.pins` are the pins of the next edge, `s.tick` is `s`
with that edge used up.
-/

open Sys2Proof Sys2Proof.Machine

/-! Decoding and encoding -/

/-- 30_encoding.md R78: decoding is total and decided by the opcode; a command survives encoding and decoding; a word
survives decoding and encoding but for the ignored field of format B. -/
def Obligations.DecodeAndEncodeAgree : Prop :=
  (∀ i : Instr, i.wellFormed = true → decode (encode i) = i) ∧
  (∀ cw : CommandWord,
    (cw.extractLsb' 128 2 = 1#2 → decode cw = .setkey (cw.extractLsb' 0 32) (cw.extractLsb' 32 32)
      (cw.extractLsb' 64 32) (cw.extractLsb' 96 32)) ∧
    (cw.extractLsb' 128 2 = 2#2 → decode cw = .encrypt (cw.extractLsb' 0 32) (cw.extractLsb' 32 32)) ∧
    (cw.extractLsb' 128 2 = 3#2 → decode cw = .decrypt (cw.extractLsb' 0 32) (cw.extractLsb' 32 32)) ∧
    (cw.extractLsb' 128 2 = 0#2 → decode cw = .reserved00)) ∧
  (∀ cw : CommandWord, cw.extractLsb' 128 2 = 1#2 → encode (decode cw) = cw) ∧
  (∀ cw : CommandWord, cw.extractLsb' 128 2 = 2#2 ∨ cw.extractLsb' 128 2 = 3#2 →
    encode (decode cw) = (cw.extractLsb' 128 2 ++ 0#64 ++ cw.extractLsb' 0 64 : BitVec 130))

/-- 30_encoding.md R75: the state after an edge does not depend on `cmd_data[127:64]` of an `ENCRYPT` or `DECRYPT`
offered at it, nor does the step read it in any other way. -/
def Obligations.IgnoredFieldHasNoEffect : Prop :=
  ∀ (s : State) (e : Edge) (es : List Edge) (ign : BitVec 64), e.cmdOp = 2#2 ∨ e.cmdOp = 3#2 →
    step { s with inputs := e :: es } =
      step { s with inputs := { e with cmdData := (ign ++ e.cmdData.extractLsb' 0 64 : BitVec 128) } :: es }

/-- 30_encoding.md R81: which command a word is, by the mask and match of its row of the opcode table. -/
def Obligations.OpcodeTableSelectsTheCommand : Prop :=
  ∀ cw : CommandWord,
    (cw &&& 0x300000000000000000000000000000000#130 = 0x100000000000000000000000000000000#130 ↔
      ∃ k0 k1 k2 k3, decode cw = .setkey k0 k1 k2 k3) ∧
    (cw &&& 0x300000000000000000000000000000000#130 = 0x200000000000000000000000000000000#130 ↔
      ∃ v0 v1, decode cw = .encrypt v0 v1) ∧
    (cw &&& 0x300000000000000000000000000000000#130 = 0x300000000000000000000000000000000#130 ↔
      ∃ v0 v1, decode cw = .decrypt v0 v1) ∧
    (cw &&& 0x300000000000000000000000000000000#130 = 0x000000000000000000000000000000000#130 ↔
      decode cw = .reserved00)

/-- The words the decoder reads from numbers, 30_encoding.md R70: the encoding of an instruction, given as a number of
130 bits or of 17 bytes, is read back as that instruction, and a number with a bit above 129 is read as none (the
model's choice of log entry 13). -/
def Obligations.TableWordsAreReadBack : Prop :=
  (∀ i : Instr, decodeTableWord 130 (encode i).toNat = some i ∧ decodeTableWord 136 (encode i).toNat = some i) ∧
  (∀ nbits w : Nat, w < 2 ^ nbits → (decodeTableWord nbits w = none ↔ 2 ^ 130 ≤ w))

/-- 30_encoding.md R79, 95_test_vectors.md section 7: words written out in the spec, decoded. -/
def Obligations.SampleWordsDecode : Prop :=
  decode 0x1ABCDEFABEFABCDEFCDEFABCDABCDEFAB#130 = .setkey 0xABCDEFAB#32 0xCDEFABCD#32 0xEFABCDEF#32 0xABCDEFAB#32 ∧
  decode 0x200000000000000008964623812300325#130 = .encrypt 0x12300325#32 0x89646238#32 ∧
  decode 0x2FFFFFFFFFFFFFFFF0000000000000000#130 = .encrypt 0#32 0#32 ∧
  decode 0x300000000000000004F7EA0CE0920FDA2#130 = .decrypt 0x0920FDA2#32 0x4F7EA0CE#32 ∧
  decode 0x000000000000000000000000000000000#130 = .reserved00

/-! The packing of keys, blocks and bytes -/

/-- 20_memory.md R52: word `i` of a key or block is at bits `[32*i + 31 : 32*i]` of the vector that carries it, both ways. -/
def Obligations.WordsAreNumberedFromTheLeastSignificant : Prop :=
  (∀ k : Key, (keyVector k).extractLsb' 0 32 = k.k0 ∧ (keyVector k).extractLsb' 32 32 = k.k1 ∧
    (keyVector k).extractLsb' 64 32 = k.k2 ∧ (keyVector k).extractLsb' 96 32 = k.k3) ∧
  (∀ b : Block, (blockVector b).extractLsb' 0 32 = b.v0 ∧ (blockVector b).extractLsb' 32 32 = b.v1) ∧
  (∀ k : Key, keyOfVector (keyVector k) = k) ∧ (∀ d : BitVec 128, keyVector (keyOfVector d) = d) ∧
  (∀ b : Block, blockOfVector (blockVector b) = b) ∧ (∀ d : BitVec 64, blockVector (blockOfVector d) = d)

/-- 20_memory.md R53: the little-endian words of byte fixtures, and the inverse map for a block. -/
def Obligations.ByteFixturesAreLittleEndian : Prop :=
  (∀ b : Vector Byte 16,
    (keyOfBytes b).k0.toNat = b[0].toNat + 2 ^ 8 * b[1].toNat + 2 ^ 16 * b[2].toNat + 2 ^ 24 * b[3].toNat ∧
    (keyOfBytes b).k1.toNat = b[4].toNat + 2 ^ 8 * b[5].toNat + 2 ^ 16 * b[6].toNat + 2 ^ 24 * b[7].toNat ∧
    (keyOfBytes b).k2.toNat = b[8].toNat + 2 ^ 8 * b[9].toNat + 2 ^ 16 * b[10].toNat + 2 ^ 24 * b[11].toNat ∧
    (keyOfBytes b).k3.toNat = b[12].toNat + 2 ^ 8 * b[13].toNat + 2 ^ 16 * b[14].toNat + 2 ^ 24 * b[15].toNat) ∧
  (∀ b : Vector Byte 8,
    (blockOfBytes b).v0.toNat = b[0].toNat + 2 ^ 8 * b[1].toNat + 2 ^ 16 * b[2].toNat + 2 ^ 24 * b[3].toNat ∧
    (blockOfBytes b).v1.toNat = b[4].toNat + 2 ^ 8 * b[5].toNat + 2 ^ 16 * b[6].toNat + 2 ^ 24 * b[7].toNat) ∧
  (∀ b : Block, blockOfBytes (bytesOfBlock b) = b) ∧ (∀ b : Vector Byte 8, bytesOfBlock (blockOfBytes b) = b)

/-- 20_memory.md R54: byte `j` of a key, of an operand block and of a result is bits `[8j+7 : 8j]` of the port. -/
def Obligations.BytesOnThePorts : Prop :=
  (∀ (b : Vector Byte 16) (j : Nat) (h : j < 16), (keyVector (keyOfBytes b)).extractLsb' (8 * j) 8 = b[j]) ∧
  (∀ (d : BitVec 128) (b : Vector Byte 16), (∀ (j : Nat) (h : j < 16), d.extractLsb' (8 * j) 8 = b[j]) →
    decode (1#2 ++ d) = .setkey (keyOfBytes b).k0 (keyOfBytes b).k1 (keyOfBytes b).k2 (keyOfBytes b).k3) ∧
  (∀ (d : BitVec 128) (b : Vector Byte 8), (∀ (j : Nat) (h : j < 8), d.extractLsb' (8 * j) 8 = b[j]) →
    decode (2#2 ++ d) = .encrypt (blockOfBytes b).v0 (blockOfBytes b).v1 ∧
    decode (3#2 ++ d) = .decrypt (blockOfBytes b).v0 (blockOfBytes b).v1) ∧
  (∀ (b : Block) (j : Nat) (h : j < 8), (blockVector b).extractLsb' (8 * j) 8 = (bytesOfBlock b)[j])

/-! Arithmetic, key schedule and round function -/

/-- 41_round_function.md R120, R121: addition and subtraction modulo 2^32. -/
def Obligations.AdditionAndSubtractionWrap : Prop :=
  (∀ a b : Word, (add32 a b).toNat = (a.toNat + b.toNat) % 2 ^ 32) ∧
  (∀ a b : Word, add32 a b = add32 b a) ∧ (∀ a b c : Word, add32 (add32 a b) c = add32 a (add32 b c)) ∧
  (∀ a : Word, add32 a 0#32 = a) ∧
  (∀ a b : Word, ((sub32 a b).toNat : Int) = ((a.toNat : Int) - (b.toNat : Int)) % 2 ^ 32) ∧
  (∀ a b : Word, sub32 a b = add32 a (add32 (xor32 b 0xFFFFFFFF#32) 1#32)) ∧ (∀ a : Word, sub32 a a = 0#32)

/-- 41_round_function.md R122. -/
def Obligations.SubtractionUndoesAddition : Prop :=
  ∀ a b : Word, sub32 (add32 a b) b = a ∧ add32 (sub32 a b) b = a

/-- 41_round_function.md R123, R124: both shifts as numbers and bit by bit, neither a rotate nor arithmetic. -/
def Obligations.ShiftsDropBitsAndFillWithZeros : Prop :=
  ∀ x : Word,
    (shl32 x 4).toNat = x.toNat * 16 % 2 ^ 32 ∧ (shr32 x 5).toNat = x.toNat / 2 ^ 5 ∧
    (shr32 x 11).toNat = x.toNat / 2 ^ 11 ∧
    (∀ i < 32, (shl32 x 4).getLsbD i = (decide (4 ≤ i) && x.getLsbD (i - 4))) ∧
    (∀ i < 32, (shr32 x 5).getLsbD i = (decide (i < 27) && x.getLsbD (i + 5))) ∧
    (∀ i < 32, (shr32 x 11).getLsbD i = (decide (i < 21) && x.getLsbD (i + 11)))

/-- 41_round_function.md R128, R129 with their corner cases, in reading (a) of 90_conflicts.md C1. -/
def Obligations.RoundFunctionFormula : Prop :=
  (∀ x : Word, mix x = ((x <<< 4) ^^^ (x >>> 5)) + x) ∧ (∀ x sk : Word, roundF x sk = (((x <<< 4) ^^^ (x >>> 5)) + x) ^^^ sk) ∧
  mix 0#32 = 0#32 ∧ mix 1#32 = 0x11#32 ∧ mix 0xFFFFFFFF#32 = 0xF800000E#32 ∧ mix 0x80000000#32 = 0x84000000#32 ∧
  mix 0x0FFFFFFF#32 = 0x0F80000E#32

/-- 40_key_schedule.md R103, R104, R105, R106: the indices as bit slices, the key read, the subkeys. -/
def Obligations.SubkeysAreSelectedBySum : Prop :=
  ∀ (k : Key) (s : Word),
    idxA s = s.extractLsb' 0 2 ∧ idxB s = s.extractLsb' 11 2 ∧
    keyRead k 0#2 = k.k0 ∧ keyRead k 1#2 = k.k1 ∧ keyRead k 2#2 = k.k2 ∧ keyRead k 3#2 = k.k3 ∧
    ska k s = s + keyRead k (s.extractLsb' 0 2) ∧ skb k s = s + keyRead k (s.extractLsb' 11 2)

/-- 40_key_schedule.md R107, 10_state.md R29: the first index cycles through the key words, and the 33 values of `SUM` are
pairwise distinct. -/
def Obligations.SumValuesAreDistinctAndCycleTheKey : Prop :=
  (∀ i : Nat, (idxA (sumAt i)).toNat = i % 4) ∧
  (∀ i j : Nat, i ≤ 32 → j ≤ 32 → sumAt i = sumAt j → i = j) ∧
  (∀ i : Nat, sumAt (i + 1) = add32 (sumAt i) 0x9E3779B9#32) ∧ sumAt 0 = 0#32 ∧ sumAt 32 = 0xC6EF3720#32

/-- 41_round_function.md R130 to R135: the pseudocode of the six micro-operations; each writes one item only. -/
def Obligations.MicroOperationsFollowThePseudocode : Prop :=
  ∀ (k : Key) (v0 v1 s : Word),
    encA k { v0 := v0, v1 := v1, sum := s } = { v0 := add32 v0 (roundF v1 (ska k s)), v1 := v1, sum := s } ∧
    encS { v0 := v0, v1 := v1, sum := s } = { v0 := v0, v1 := v1, sum := add32 s 0x9E3779B9#32 } ∧
    encB k { v0 := v0, v1 := v1, sum := s } = { v0 := v0, v1 := add32 v1 (roundF v0 (skb k s)), sum := s } ∧
    decB k { v0 := v0, v1 := v1, sum := s } = { v0 := v0, v1 := sub32 v1 (roundF v0 (skb k s)), sum := s } ∧
    decS { v0 := v0, v1 := v1, sum := s } = { v0 := v0, v1 := v1, sum := sub32 s 0x9E3779B9#32 } ∧
    decA k { v0 := v0, v1 := v1, sum := s } = { v0 := sub32 v0 (roundF v1 (ska k s)), v1 := v1, sum := s }

/-- 41_round_function.md R137: each half-round and its counterpart undo each other, in both orders, so each is a
bijection; a half-round leaves the other half and `SUM` alone. -/
def Obligations.HalfRoundsInvert : Prop :=
  ∀ (k : Key) (w : Work),
    decA k (encA k w) = w ∧ encA k (decA k w) = w ∧ decB k (encB k w) = w ∧ encB k (decB k w) = w ∧
    decS (encS w) = w ∧ encS (decS w) = w ∧
    (encA k w).v1 = w.v1 ∧ (encA k w).sum = w.sum ∧ (encB k w).v0 = w.v0 ∧ (encB k w).sum = w.sum ∧
    Function.Bijective (encA k) ∧ Function.Bijective (encB k) ∧ Function.Bijective (decA k) ∧ Function.Bijective (decB k)

/-- 42_encrypt.md R152: the encrypt round as a function, and `Enc` as 32 of them, which leave `SUM` at `0xC6EF3720`. -/
def Obligations.EncIsThirtyTwoEncryptRounds : Prop :=
  (∀ (k : Key) (v0 v1 s : Word),
    encRound k { v0 := v0, v1 := v1, sum := s } =
      let v0' := add32 v0 (roundF v1 (ska k s))
      let s' := add32 s 0x9E3779B9#32
      { v0 := v0', v1 := add32 v1 (roundF v0' (skb k s')), sum := s' }) ∧
  (∀ (k : Key) (v0 v1 : Word),
    repeatTimes (encRound k) 32 { v0 := v0, v1 := v1, sum := 0#32 } =
      { v0 := (enc k { v0 := v0, v1 := v1 }).v0, v1 := (enc k { v0 := v0, v1 := v1 }).v1, sum := 0xC6EF3720#32 })

/-- 43_decrypt.md R172: the decrypt round as a function, and `Dec` as 32 of them, which leave `SUM` at 0. -/
def Obligations.DecIsThirtyTwoDecryptRounds : Prop :=
  (∀ (k : Key) (v0 v1 s : Word),
    decRound k { v0 := v0, v1 := v1, sum := s } =
      let v1' := sub32 v1 (roundF v0 (skb k s))
      let s' := sub32 s 0x9E3779B9#32
      { v0 := sub32 v0 (roundF v1' (ska k s')), v1 := v1', sum := s' }) ∧
  (∀ (k : Key) (v0 v1 : Word),
    repeatTimes (decRound k) 32 { v0 := v0, v1 := v1, sum := 0xC6EF3720#32 } =
      { v0 := (dec k { v0 := v0, v1 := v1 }).v0, v1 := (dec k { v0 := v0, v1 := v1 }).v1, sum := 0#32 })

/-- 42_encrypt.md R151, 43_decrypt.md R171: `Enc` and `Dec` are the source's loops, written here on plain bit vectors. -/
def Obligations.EncAndDecAreTheSourcesLoops : Prop :=
  (∀ (k : Key) (b : Block),
    enc k b =
      let r := (List.range 32).foldl (fun (w : Word × Word × Word) _ =>
        let v0 := w.1 + ((((w.2.1 <<< 4) ^^^ (w.2.1 >>> 5)) + w.2.1) ^^^ (w.2.2 + keyRead k ((w.2.2 &&& 3#32).setWidth 2)))
        let sum := w.2.2 + 0x9E3779B9#32
        let v1 := w.2.1 + ((((v0 <<< 4) ^^^ (v0 >>> 5)) + v0) ^^^ (sum + keyRead k (((sum >>> 11) &&& 3#32).setWidth 2)))
        (v0, v1, sum)) (b.v0, b.v1, 0#32)
      { v0 := r.1, v1 := r.2.1 }) ∧
  (∀ (k : Key) (b : Block),
    dec k b =
      let r := (List.range 32).foldl (fun (w : Word × Word × Word) _ =>
        let v1 := w.2.1 - ((((w.1 <<< 4) ^^^ (w.1 >>> 5)) + w.1) ^^^ (w.2.2 + keyRead k (((w.2.2 >>> 11) &&& 3#32).setWidth 2)))
        let sum := w.2.2 - 0x9E3779B9#32
        let v0 := w.1 - ((((v1 <<< 4) ^^^ (v1 >>> 5)) + v1) ^^^ (sum + keyRead k ((sum &&& 3#32).setWidth 2)))
        (v0, v1, sum)) (b.v0, b.v1, 0xC6EF3720#32)
      { v0 := r.1, v1 := r.2.1 })

/-- 43_decrypt.md R179: a decrypt round undoes an encrypt round, and the 32 decrypt rounds peel 32 encrypt rounds off. -/
def Obligations.DecryptRoundsPeelEncryptRounds : Prop :=
  (∀ (k : Key) (w : Work), decRound k (encRound k w) = w) ∧
  (∀ (k : Key) (v0 v1 : Word),
    (repeatTimes (encRound k) 32 { v0 := v0, v1 := v1, sum := 0#32 }).sum = 0xC6EF3720#32 ∧
    repeatTimes (decRound k) 32 (repeatTimes (encRound k) 32 { v0 := v0, v1 := v1, sum := 0#32 }) =
      { v0 := v0, v1 := v1, sum := 0#32 })

/-- 43_decrypt.md R180: the other order, `Enc(K, Dec(K, b)) = b`. -/
def Obligations.EncryptUndoesDecrypt : Prop :=
  (∀ (k : Key) (w : Work), encRound k (decRound k w) = w) ∧ (∀ (k : Key) (b : Block), enc k (dec k b) = b)

/-- 42_encrypt.md R160: `Enc(K, .)` is a bijection on the blocks and its inverse is `Dec(K, .)`. -/
def Obligations.EncryptionIsABijection : Prop :=
  ∀ k : Key, Function.Bijective (enc k) ∧ Function.LeftInverse (dec k) (enc k) ∧ Function.RightInverse (dec k) (enc k)

/-! The commands -/

/-- 30_encoding.md R70, 10_state.md R42: the command offered at an edge where it may issue is decoded and executed, on
the state with that edge used up. -/
def Obligations.StepRunsTheOfferedCommand : Prop :=
  ∀ (s : State) (e : Edge) (es : List Edge) (i : Instr), s.inputs = e :: es → e.rst = false → e.cmdValid = true →
    s.resetSeen = true → s.phase = .idle → decode (e.cmdOp ++ e.cmdData) = i →
    step s = exec i { s with inputs := es, edge := s.edge + 1 }

/-- The word `withFetchWord` places runs at the very next step (the model's own, log entry 12; 10_state.md R30, R42). -/
def Obligations.StepRunsThePlacedWord : Prop :=
  ∀ (s : State) (nbits w : Nat) (i : Instr), decodeTableWord nbits w = some i →
    step (s.withFetchWord nbits w) = exec i { s with phase := .idle, resetSeen := true, edge := s.edge + 1 }

/-- 40_key_schedule.md R100: `SETKEY` writes the four key registers and `KEYVALID` and nothing else, whether or not a key
is loaded; it cannot issue during an operation or while a result is untaken. -/
def Obligations.SetkeyLoadsTheKey : Prop :=
  ∀ (k0 k1 k2 k3 : Word) (s : State), s.resetSeen = true →
    (s.phase = .idle →
      exec (.setkey k0 k1 k2 k3) s =
        .next { s with k := { k0 := k0, k1 := k1, k2 := k2, k3 := k3 }, keyValid := true }) ∧
    (s.phase ≠ .idle → s.outputs.cmdReady = false) ∧
    decode (1#2 ++ k3 ++ k2 ++ k1 ++ k0) = .setkey k0 k1 k2 k3

/-- 42_encrypt.md R150, the issue: the five registers `ENCRYPT` writes, everything else unchanged. -/
def Obligations.EncryptIssues : Prop :=
  ∀ (v0 v1 : Word) (s : State), s.resetSeen = true → s.phase = .idle → s.keyValid = true →
    exec (.encrypt v0 v1) s =
      .next { s with v := { v0 := v0, v1 := v1 }, sum := 0x00000000#32, rnd := 0#6, phase := .enc }

/-- 43_decrypt.md R170, the issue: the five registers `DECRYPT` writes, everything else unchanged. -/
def Obligations.DecryptIssues : Prop :=
  ∀ (v0 v1 : Word) (s : State), s.resetSeen = true → s.phase = .idle → s.keyValid = true →
    exec (.decrypt v0 v1) s =
      .next { s with v := { v0 := v0, v1 := v1 }, sum := 0xC6EF3720#32, rnd := 0#6, phase := .dec }

/-- 60_exceptions.md R192: `ENCRYPT` and `DECRYPT` are refused while `KEYVALID = 0`. -/
def Obligations.OperationWithoutKeyIsRefused : Prop :=
  ∀ s : State, s.resetSeen = true → s.phase = .idle → s.keyValid = false →
    (∀ v0 v1 : Word, exec (.encrypt v0 v1) s = .refused .keyNotLoaded ∧ exec (.decrypt v0 v1) s = .refused .keyNotLoaded) ∧
    (s.pins.rst = false → s.pins.cmdValid = true → s.pins.cmdOp = 2#2 ∨ s.pins.cmdOp = 3#2 →
      step s = .refused .keyNotLoaded)

/-- 30_encoding.md R82: the issue of opcode `0b00` is refused, as an instruction and at the edge where it issues. -/
def Obligations.ReservedOpcodeIsRefused : Prop :=
  ∀ s : State, s.resetSeen = true → s.phase = .idle →
    exec .reserved00 s = .refused .reservedOpcode ∧
    (s.pins.rst = false → s.pins.cmdValid = true → s.pins.cmdOp = 0#2 → step s = .refused .reservedOpcode)

/-- 10_state.md R42 (the model reads it so, log entry 7): a command that finds the core busy is held off with none of its
effect. The reserved code is refused in every state, busy ones and those before the first reset too (log entry 8, read
from R40: enabled never). -/
def Obligations.BusyCommandIsHeldOff : Prop :=
  (∀ (i : Instr) (s : State), i.wellFormed = true → s.resetSeen = true → s.phase ≠ .idle → exec i s = .next s) ∧
  (∀ s : State, exec .reserved00 s = .refused .reservedOpcode)

/-- The frames of the commands, 40_key_schedule.md R100, 42_encrypt.md R150, 43_decrypt.md R170: what each leaves
unchanged. There is no memory. -/
def Obligations.CommandFrames : Prop :=
  ∀ (i : Instr) (s t : State), exec i s = .next t →
    t.inputs = s.inputs ∧ t.edge = s.edge ∧ t.taken = s.taken ∧ t.resetSeen = s.resetSeen ∧
    (∀ k0 k1 k2 k3, i = .setkey k0 k1 k2 k3 → t.v = s.v ∧ t.sum = s.sum ∧ t.rnd = s.rnd ∧ t.phase = s.phase) ∧
    (∀ v0 v1, i = .encrypt v0 v1 ∨ i = .decrypt v0 v1 → t.k = s.k ∧ t.keyValid = s.keyValid)

/-! One edge -/

/-- 10_state.md R40: the step relation row by row, after the first reset and with `rst = 0`, and that where no row is
enabled (R39, 60_exceptions.md R210) nothing but the edge passes. That a running round completes exactly where
`roundDue` is set is the model's choice, log entry 3. -/
def Obligations.StepRelationTable : Prop :=
  ∀ s : State, s.resetSeen = true → s.pins.rst = false →
    (s.phase = .idle → s.pins.cmdValid = true → s.pins.cmdOp = 1#2 →
      step s = .next { s.tick with k := keyOfVector s.pins.cmdData, keyValid := true }) ∧
    (s.phase = .idle → s.pins.cmdValid = true → s.pins.cmdOp = 2#2 → s.keyValid = true →
      step s = .next { s.tick with v := blockOfVector (s.pins.cmdData.extractLsb' 0 64), sum := 0x00000000#32, rnd := 0#6, phase := .enc }) ∧
    (s.phase = .idle → s.pins.cmdValid = true → s.pins.cmdOp = 3#2 → s.keyValid = true →
      step s = .next { s.tick with v := blockOfVector (s.pins.cmdData.extractLsb' 0 64), sum := 0xC6EF3720#32, rnd := 0#6, phase := .dec }) ∧
    (s.phase = .enc → s.pins.roundDue = true →
      step s = .next { s.tick with
        v := { v0 := (encRound s.k s.work).v0, v1 := (encRound s.k s.work).v1 }, sum := (encRound s.k s.work).sum,
        rnd := s.rnd + 1#6, phase := if s.rnd + 1#6 = 32#6 then .done else .enc }) ∧
    (s.phase = .dec → s.pins.roundDue = true →
      step s = .next { s.tick with
        v := { v0 := (decRound s.k s.work).v0, v1 := (decRound s.k s.work).v1 }, sum := (decRound s.k s.work).sum,
        rnd := s.rnd + 1#6, phase := if s.rnd + 1#6 = 32#6 then .done else .dec }) ∧
    (s.phase = .done → s.pins.resReady = true →
      step s = .next { s.tick with taken := s.taken ++ [s.v.v1 ++ s.v.v0], phase := .idle }) ∧
    (s.phase = .idle → s.pins.cmdValid = false → step s = .next s.tick) ∧
    (s.phase = .enc ∨ s.phase = .dec → s.pins.roundDue = false → step s = .next s.tick) ∧
    (s.phase = .done → s.pins.resReady = false → step s = .next s.tick) ∧
    (s.phase = .idle → s.pins.cmdValid = true → s.pins.cmdOp = 0#2 → step s = .refused .reservedOpcode) ∧
    (s.phase = .idle → s.pins.cmdValid = true → s.pins.cmdOp = 2#2 ∨ s.pins.cmdOp = 3#2 → s.keyValid = false →
      step s = .refused .keyNotLoaded)

/-- 10_state.md R42: a command issues where `cmd_valid` and `cmd_ready` are both 1; where either is 0 nothing issues and
the command port changes no state, whatever it carries; `cmd_ready` is `PHASE = IDLE`. -/
def Obligations.CommandPortHandshake : Prop :=
  ∀ (s : State) (e : Edge) (es : List Edge), s.resetSeen = true → e.rst = false →
    (e.cmdValid = true → s.outputs.cmdReady = true →
      step { s with inputs := e :: es } = exec (decode (e.cmdOp ++ e.cmdData)) { s with inputs := es, edge := s.edge + 1 }) ∧
    (e.cmdValid = false ∨ s.outputs.cmdReady = false →
      ∀ (valid : Bool) (op : BitVec 2) (data : BitVec 128), valid = false ∨ s.outputs.cmdReady = false →
        step { s with inputs := e :: es } =
          step { s with inputs := { e with cmdValid := valid, cmdOp := op, cmdData := data } :: es }) ∧
    (s.outputs.cmdReady = true ↔ s.phase = .idle)

/-- 42_encrypt.md R154, 43_decrypt.md R174, 41_round_function.md R138: a round step reads `K` and writes `V`, `SUM`,
`RND` and possibly `PHASE`, cannot be refused, and until the edge at which it completes nothing changes (the pace is the
model's choice, log entry 3). -/
def Obligations.RoundStepFrame : Prop :=
  ∀ s : State, s.resetSeen = true → s.pins.rst = false → s.phase = .enc ∨ s.phase = .dec →
    (s.pins.roundDue = false → step s = .next s.tick) ∧
    (s.pins.roundDue = true → ∃ t, step s = .next t ∧ t.rnd = s.rnd + 1#6 ∧ (t.phase = .done ↔ s.rnd = 31#6) ∧
      (s.rnd ≠ 31#6 → t.phase = s.phase) ∧ t.k = s.k ∧ t.keyValid = s.keyValid ∧ t.taken = s.taken ∧ t.resetSeen = true ∧
      (s.phase = .enc → t.work = encRound s.k s.work) ∧ (s.phase = .dec → t.work = decRound s.k s.work))

/-- 10_state.md R43: while `PHASE = DONE` the result is offered, words in order, and a take gives it to the host and goes
to `IDLE` with `V`, `SUM`, `RND` unchanged. What `res_data` shows at other times is not stated. -/
def Obligations.TakeDeliversTheResult : Prop :=
  ∀ s : State, s.resetSeen = true → s.phase = .done →
    s.outputs.resValid = true ∧ s.outputs.resData.extractLsb' 0 32 = s.v.v0 ∧ s.outputs.resData.extractLsb' 32 32 = s.v.v1 ∧
    (s.pins.rst = false → s.pins.resReady = true →
      step s = .next { s.tick with taken := s.taken ++ [s.outputs.resData], phase := .idle }) ∧
    (s.pins.rst = false → s.pins.resReady = false → step s = .next s.tick)

/-- 70_reset_and_hazards.md R232: a result that is not taken is never overwritten, and `cmd_ready` stays 0 for ever. -/
def Obligations.UntakenResultBlocksTheCore : Prop :=
  ∀ (es rest : List Edge) (s : State), s.resetSeen = true → s.phase = .done → s.inputs = es ++ rest →
    (∀ e ∈ es, e.rst = false ∧ e.resReady = false) →
    s.outputs.cmdReady = false ∧
    Sys2Proof.core.run es.length s = .next { s with inputs := rest, edge := s.edge + es.length }

/-- 10_state.md R41: the status outputs after the first reset. -/
def Obligations.StatusOutputsFollowTheState : Prop :=
  ∀ s : State, s.resetSeen = true →
    (s.outputs.cmdReady = true ↔ s.phase = .idle) ∧ (s.outputs.resValid = true ↔ s.phase = .done) ∧
    s.outputs.keyValid = s.keyValid

/-- Every step uses up one edge; only a take adds a result; the first reset is never forgotten (20_memory.md R57, R59 and
log entries 1, 11). -/
def Obligations.EveryStepUsesOneEdge : Prop :=
  ∀ s t : State, step s = .next t →
    t.inputs = s.inputs.tail ∧ t.edge = s.edge + 1 ∧ (s.resetSeen = true → t.resetSeen = true) ∧
    (t.taken = s.taken ∨
      (t.taken = s.taken ++ [blockVector s.v] ∧ s.phase = .done ∧ s.pins.resReady = true ∧ s.pins.rst = false ∧ t.phase = .idle))

/-! Reset -/

/-- 10_state.md R44: what the launch state says. The contents of `K`, `V`, `SUM`, `RND` are unspecified and not stated. -/
def Obligations.ResetStateIsIdleWithoutKey : Prop :=
  State.reset.phase = .idle ∧ State.reset.keyValid = false ∧ State.reset.resetSeen = true ∧
  State.reset.outputs.cmdReady = true ∧ State.reset.outputs.resValid = false ∧ State.reset.outputs.keyValid = false

/-- 60_exceptions.md R197: at an edge with `rst = 1` only the reset step happens, whatever the other pins are. Nothing is
said of the unspecified contents it leaves. -/
def Obligations.ResetWins : Prop :=
  ∀ (s : State) (e : Edge) (es : List Edge), e.rst = true →
    ∃ t, step { s with inputs := e :: es } = .next t ∧ t.phase = .idle ∧ t.keyValid = false ∧ t.resetSeen = true ∧
      t.taken = s.taken ∧ t.inputs = es ∧
      t.outputs.cmdReady = true ∧ t.outputs.resValid = false ∧ t.outputs.keyValid = false

/-- 70_reset_and_hazards.md R221: reset abandons whatever was running; no result is offered or taken for it, the key is
lost and an operation is refused until a `SETKEY`. Nothing else abandons an operation: at an edge without reset a
running one keeps its direction or is done, and a finished one stays offered or is taken. -/
def Obligations.ResetAbandonsTheOperation : Prop :=
  (∀ s : State, s.pins.rst = true →
    ∃ t, step s = .next t ∧ t.phase = .idle ∧ t.keyValid = false ∧ t.taken = s.taken ∧
      t.outputs.resValid = false ∧ t.outputs.cmdReady = true ∧ t.outputs.keyValid = false ∧
      (∀ v0 v1 : Word, exec (.encrypt v0 v1) t = .refused .keyNotLoaded ∧ exec (.decrypt v0 v1) t = .refused .keyNotLoaded) ∧
      (∀ k0 k1 k2 k3 : Word, ∃ u, exec (.setkey k0 k1 k2 k3) t = .next u ∧ u.keyValid = true)) ∧
  (∀ s : State, s.resetSeen = true → s.pins.rst = false →
    (s.phase = .enc ∨ s.phase = .dec → ∃ t, step s = .next t ∧ (t.phase = s.phase ∨ t.phase = .done)) ∧
    (s.phase = .done → ∃ t, step s = .next t ∧ (t.phase = .done ∨ t.phase = .idle ∧ t.taken = s.taken ++ [blockVector s.v])))

/-- 70_reset_and_hazards.md R223: before the first reset step no command is described and no take; a reset step at any edge
gives the launch conditions. That a merely offered command or a merely raised `res_ready` is the refused move, whatever
the unspecified `PHASE` is, is the model's choice, log entry 6. -/
def Obligations.NothingRunsBeforeTheFirstReset : Prop :=
  ∀ s : State, s.resetSeen = false →
    (s.pins.rst = false → s.pins.cmdValid = true ∨ s.pins.resReady = true → step s = .refused .beforeFirstReset) ∧
    (∀ i : Instr, ∃ r, exec i s = .refused r) ∧
    (s.pins.rst = true → ∃ t, step s = .next t ∧ t.resetSeen = true ∧ t.phase = .idle ∧ t.keyValid = false)

/-! The whole machine -/

/-- 10_state.md R45 at the launch state. -/
def Obligations.LaunchStateMeetsTheRoundInvariant : Prop :=
  State.reset.Inv ∧ State.powerUp.Inv

/-- 10_state.md R45, R29: every step keeps the bound on `RND`, the key flag and the value of `SUM` in each phase. -/
def Obligations.StepKeepsTheRoundInvariant : Prop :=
  ∀ s t : State, s.Inv → step s = .next t → t.Inv

/-- 10_state.md R23, R22: after the first reset and without a reset, `K` and `KEYVALID` change only at the issue of a
`SETKEY`, which needs `PHASE = IDLE` and leaves its operand in `K`. -/
def Obligations.OnlySetkeyChangesTheKey : Prop :=
  ∀ s t : State, s.resetSeen = true → s.pins.rst = false → step s = .next t →
    (t.k = s.k ∧ t.keyValid = s.keyValid) ∨
    (s.phase = .idle ∧ s.pins.cmdValid = true ∧ s.pins.cmdOp = 1#2 ∧ t.k = keyOfVector s.pins.cmdData ∧ t.keyValid = true)

/-- 60_exceptions.md R193, R190: the step is refused exactly in the refused situations; in every other state and at every
other edge it has a next state, an untaken result included (70_reset_and_hazards.md R232). Before the first reset which
edges those are is the model's choice, log entry 6: a quiet edge has a next state, and an offered command or a raised
`res_ready` is refused. -/
def Obligations.RefusedExactlyInTheRefusedSituations : Prop :=
  ∀ s : State, (EdgeIsDescribed s s.pins → ∃ t, step s = .next t) ∧ (¬ EdgeIsDescribed s s.pins → ∃ r, step s = .refused r)

/-- 42_encrypt.md R155: from the issue of `ENCRYPT v0, v1`, however many edges each round takes and whatever else the pins
do but reset, the 32nd round step leaves `Enc(K, (v0, v1))`, and that is the value the host takes. -/
def Obligations.EncryptRunComputesEnc : Prop :=
  ∀ (s : State) (a e f : Edge) (es rest : List Edge) (v0 v1 : Word),
    s.resetSeen = true → s.phase = .idle → s.keyValid = true →
    s.inputs = a :: (es ++ e :: f :: rest) →
    a.rst = false → a.cmdValid = true → decode (commandOf a) = .encrypt v0 v1 →
    (∀ x ∈ es, x.rst = false) → (es.filter (·.roundDue)).length = 31 → e.rst = false → e.roundDue = true →
    let d : State := { s with
      inputs := f :: rest, edge := s.edge + es.length + 2, v := enc s.k { v0 := v0, v1 := v1 },
      sum := 0xC6EF3720#32, rnd := 32#6, phase := .done }
    Sys2Proof.core.run (es.length + 2) s = .next d ∧
    (f.rst = false → f.resReady = true →
      step d = .next { d with
        inputs := rest, edge := d.edge + 1, phase := .idle,
        taken := s.taken ++ [blockVector (enc s.k { v0 := v0, v1 := v1 })] })

/-- 43_decrypt.md R175: the same for `DECRYPT v0, v1` and `Dec(K, (v0, v1))`, which leaves `SUM` at 0. -/
def Obligations.DecryptRunComputesDec : Prop :=
  ∀ (s : State) (a e f : Edge) (es rest : List Edge) (v0 v1 : Word),
    s.resetSeen = true → s.phase = .idle → s.keyValid = true →
    s.inputs = a :: (es ++ e :: f :: rest) →
    a.rst = false → a.cmdValid = true → decode (commandOf a) = .decrypt v0 v1 →
    (∀ x ∈ es, x.rst = false) → (es.filter (·.roundDue)).length = 31 → e.rst = false → e.roundDue = true →
    let d : State := { s with
      inputs := f :: rest, edge := s.edge + es.length + 2, v := dec s.k { v0 := v0, v1 := v1 },
      sum := 0x00000000#32, rnd := 32#6, phase := .done }
    Sys2Proof.core.run (es.length + 2) s = .next d ∧
    (f.rst = false → f.resReady = true →
      step d = .next { d with
        inputs := rest, edge := d.edge + 1, phase := .idle,
        taken := s.taken ++ [blockVector (dec s.k { v0 := v0, v1 := v1 })] })

/-- 43_decrypt.md R178: `Dec(K, Enc(K, b)) = b`. On the hardware: where `SETKEY K`, `ENCRYPT b`, the take of its result
`c`, `DECRYPT c` and the take of its result `p` happen in that order on one instance with no other `SETKEY` and no reset
between, `p = b`, whatever else happens between: idle edges, other operations, delayed takes, any pace. And this can
happen: at every pace of the rounds the five moves, one after the other, run to the end. -/
def Obligations.DecryptUndoesEncrypt : Prop :=
  (∀ (k : Key) (b : Block), dec k (enc k b) = b) ∧
  (∀ (k : Key) (b c p : Block) (s0 t0 s1 t1 s2 t2 s3 t3 s4 t4 : State),
    s0.Issues (.setkey k.k0 k.k1 k.k2 k.k3) → step s0 = .next t0 → RunWithin State.LeavesKey t0 s1 →
    s1.Issues (.encrypt b.v0 b.v1) → step s1 = .next t1 → RunWithin State.LeavesKeyAndResult t1 s2 →
    s2.Takes → step s2 = .next t2 → t2.taken = s2.taken ++ [blockVector c] → RunWithin State.LeavesKey t2 s3 →
    s3.Issues (.decrypt c.v0 c.v1) → step s3 = .next t3 → RunWithin State.LeavesKeyAndResult t3 s4 →
    s4.Takes → step s4 = .next t4 → t4.taken = s4.taken ++ [blockVector p] → p = b) ∧
  (∀ (s : State) (k : Key) (b : Block) (a0 a1 f : Edge) (es : List Edge), s.resetSeen = true → s.phase = .idle →
    OffersCommand a0 (.setkey k.k0 k.k1 k.k2 k.k3) → OffersCommand a1 (.encrypt b.v0 b.v1) → RoundsComplete es →
    AcceptsResult f →
    ∃ (t : State) (c : Block),
      Sys2Proof.core.run (es.length + 3) { s with inputs := a0 :: a1 :: (es ++ [f]) } = .next t ∧
      t.taken = s.taken ++ [blockVector c] ∧
      ∀ (a2 f2 : Edge) (es2 : List Edge), OffersCommand a2 (.decrypt c.v0 c.v1) → RoundsComplete es2 → AcceptsResult f2 →
        ∃ u : State, Sys2Proof.core.run (es2.length + 2) { t with inputs := a2 :: (es2 ++ [f2]) } = .next u ∧
          u.taken = s.taken ++ [blockVector c, blockVector b] ∧ u.phase = .idle)

/-- 30_encoding.md R86: `ENCRYPTK` and `DECRYPTK` give the host `Enc` and `Dec` of their operands, from any idle state, with
any idle edges between the two commands, at every pace of the rounds, and however long the host then waits with the take
(that a list of edges is the host and where rounds complete in it are the model's, log entries 1, 3 and 22). -/
def Obligations.PseudoCommandsReturnTheResult : Prop :=
  ∀ (s : State) (k : Key) (b : Block) (gap es late rest : List Edge), s.resetSeen = true → s.phase = .idle →
    (∀ x ∈ gap, x.rst = false ∧ x.cmdValid = false) → RoundsComplete es →
    (∀ x ∈ late, x.rst = false ∧ x.resReady = false) →
    (∃ t, Sys2Proof.core.run (gap.length + es.length + late.length + 3)
        { s with inputs := encryptkMoves k b gap (es ++ late) ++ rest } = .next t ∧
      t.taken = s.taken ++ [blockVector (enc k b)] ∧ t.k = k ∧ t.keyValid = true ∧ t.phase = .idle ∧ t.inputs = rest) ∧
    (∃ t, Sys2Proof.core.run (gap.length + es.length + late.length + 3)
        { s with inputs := decryptkMoves k b gap (es ++ late) ++ rest } = .next t ∧
      t.taken = s.taken ++ [blockVector (dec k b)] ∧ t.k = k ∧ t.keyValid = true ∧ t.phase = .idle ∧ t.inputs = rest)

/-- 70_reset_and_hazards.md R240, 42_encrypt.md R156: an operation running in a state that meets the invariant reaches
`DONE` at exactly the edge that completes its 32nd round, and not before, whatever the data. -/
def Obligations.RunningOperationReachesDone : Prop :=
  ∀ (s : State) (es rest : List Edge) (e : Edge), s.Inv → s.resetSeen = true → s.phase = .enc ∨ s.phase = .dec →
    s.inputs = es ++ e :: rest → (∀ x ∈ es, x.rst = false) → e.rst = false → e.roundDue = true →
    (es.filter (·.roundDue)).length + s.rnd.toNat = 31 →
    (∀ m ≤ es.length, ∃ t, Sys2Proof.core.run m s = .next t ∧ t.phase = s.phase) ∧
    (∃ t, Sys2Proof.core.run (es.length + 1) s = .next t ∧ t.phase = .done ∧ t.rnd = 32#6)

/-- 70_reset_and_hazards.md R222, 10_state.md R26, R60: no run depends on the unspecified contents. Two machines that differ
at most in them, whatever free values each draws, are refused together or go on together and take the same results, at
one edge and over all the edges of the host's list, which is of any length. -/
def Obligations.UnspecifiedContentsNeverMatter : Prop :=
  (∀ s t : State, s.SameButUnspecified t → s.inputs ≠ [] →
    (∀ s', step s = .next s' → ∃ t', step t = .next t' ∧ s'.SameButUnspecified t') ∧
    (∀ r, step s = .refused r → step t = .refused r)) ∧
  (∀ (n : Nat) (s t : State), s.SameButUnspecified t → n ≤ s.inputs.length →
    (∀ s', Sys2Proof.core.run n s = .next s' →
      ∃ t', Sys2Proof.core.run n t = .next t' ∧ s'.SameButUnspecified t' ∧ s'.taken = t'.taken) ∧
    (∀ r, Sys2Proof.core.run n s = .refused r → Sys2Proof.core.run n t = .refused r))

/-- 70_reset_and_hazards.md R241, 42_encrypt.md R156, 40_key_schedule.md R109: with the same pins but for the operands, at
one edge and over all the edges of the host's list, the phase and the number of results, and while an operation runs or
its result is offered the round count and the key indices, do not depend on the key or the block. -/
def Obligations.ControlIgnoresKeyAndBlock : Prop :=
  (∀ (s t : State) (e f : Edge) (es fs : List Edge), s.SameControl t → SameButOperand e f → s.inputs = e :: es →
    t.inputs = f :: fs →
    (∀ s', step s = .next s' → ∃ t', step t = .next t' ∧ s'.SameControl t') ∧
    (∀ r, step s = .refused r → step t = .refused r)) ∧
  (∀ (n : Nat) (s t : State), s.SameControl t → List.Forall₂ SameButOperand s.inputs t.inputs → n ≤ s.inputs.length →
    (∀ s', Sys2Proof.core.run n s = .next s' →
      ∃ t', Sys2Proof.core.run n t = .next t' ∧ s'.SameControl t' ∧
        (s'.resetSeen = true → s'.phase ≠ .idle → idxA s'.sum = idxA t'.sum ∧ idxB s'.sum = idxB t'.sum)) ∧
    (∀ r, Sys2Proof.core.run n s = .refused r → Sys2Proof.core.run n t = .refused r))

/-- 70_reset_and_hazards.md R237, 10_state.md R39, 60_exceptions.md R210: in `IDLE` all state is kept over any edges without
a reset and without a command, so the outcome, the taken results and `key_valid`, stands; and so it is once the list of
edges is used up (that further edges are then quiet is log entry 2, the count of edges log entry 11). -/
def Obligations.FinishedRunKeepsItsOutcome : Prop :=
  (∀ (es rest : List Edge) (s : State), s.resetSeen = true → s.phase = .idle → s.inputs = es ++ rest →
    (∀ e ∈ es, e.rst = false ∧ e.cmdValid = false) →
    Sys2Proof.core.run es.length s = .next { s with inputs := rest, edge := s.edge + es.length } ∧
    { s with inputs := rest, edge := s.edge + es.length }.outcome = s.outcome) ∧
  (∀ (n : Nat) (s : State), s.resetSeen = true → s.RunOver →
    ∃ t, Sys2Proof.core.run n s = .next t ∧ t.RunOver ∧ t.outcome = s.outcome ∧ t.edge = s.edge + n)

/-- 60_exceptions.md R206, 20_memory.md R61: in any interleaving of the steps of several instances, each instance ends
where its own steps alone would have brought it. A schedule with a refused step has no next platform (log entry 16). -/
def Obligations.InstancesAreIndependent : Prop :=
  ∀ (schedule : List Nat) (p q : List State), platformRun p schedule = .next q →
    q.length = p.length ∧
    ∀ (i : Nat) (s : State), p[i]? = some s →
      ∃ t, q[i]? = some t ∧ Sys2Proof.core.run (schedule.count i) s = .next t

/-- 10_state.md R22, R28, R37: no port shows `K`, `SUM` or `RND`, in any phase, a result offered or not. For `res_data`
while nothing is offered this is the shape of its free value, log entry 5, and before the first reset that of log entry
6. -/
def Obligations.NoPortShowsTheKey : Prop :=
  ∀ (s : State) (k : Key) (sum : Word) (rnd : BitVec 6),
    ({ s with k := k, sum := sum, rnd := rnd } : State).outputs = s.outputs

/-- 70_reset_and_hazards.md R240: the core is fair, and a running operation always reaches `DONE`, with its 32nd round
completed, whatever else the host does but reset, however long its list is and at whatever pace; until then the phase
stands. That the pace past the end of the list is a free but fair one is the model's, log entry 2. -/
def Obligations.RunningOperationAlwaysReachesDone : Prop :=
  (∀ (s : State) (n : Nat), s.inputs = [] → ∃ m, n ≤ m ∧ ({ s with edge := m } : State).pins.roundDue = true) ∧
  (∀ s : State, s.Inv → s.resetSeen = true → s.phase = .enc ∨ s.phase = .dec → (∀ x ∈ s.inputs, x.rst = false) →
    ∃ n t, Sys2Proof.core.run n s = .next t ∧ t.phase = .done ∧ t.rnd = 32#6 ∧
      ∀ m < n, ∃ u, Sys2Proof.core.run m s = .next u ∧ u.phase = s.phase)
end

