-- ==== Sys2Proof/Laws/Encoding.lean ====
section
/-!
SUPPORT. The fields of the two formats, bit by bit and field by field (30_encoding.md R71).
-/

namespace Sys2Proof

theorem formatK_getLsbD (op : BitVec 2) (k0 k1 k2 k3 : Word) (i : Nat) :
    (formatK op k0 k1 k2 k3).getLsbD i =
      if i < 32 then k0.getLsbD i else if i < 64 then k1.getLsbD (i - 32) else if i < 96 then k2.getLsbD (i - 64)
      else if i < 128 then k3.getLsbD (i - 96) else op.getLsbD (i - 128) := by
  change @BitVec.getLsbD (2 + 32 + 32 + 32 + 32) (op ++ k3 ++ k2 ++ k1 ++ k0) i = _
  simp only [BitVec.getLsbD_append, Nat.sub_sub]
  repeat' split
  all_goals first | omega | with_reducible rfl

theorem formatB_getLsbD (op : BitVec 2) (ign : BitVec 64) (v0 v1 : Word) (i : Nat) :
    (formatB op ign v0 v1).getLsbD i =
      if i < 32 then v0.getLsbD i else if i < 64 then v1.getLsbD (i - 32) else if i < 128 then ign.getLsbD (i - 64)
      else op.getLsbD (i - 128) := by
  change @BitVec.getLsbD (2 + 64 + 32 + 32) (op ++ ign ++ v1 ++ v0) i = _
  simp only [BitVec.getLsbD_append, Nat.sub_sub]
  repeat' split
  all_goals first | omega | with_reducible rfl

theorem opOf_formatK (op : BitVec 2) (k0 k1 k2 k3 : Word) : opOf (formatK op k0 k1 k2 k3) = op := by
  apply BitVec.eq_of_getLsbD_eq
  intro i hi
  rw [opOf, BitVec.getLsbD_extractLsb', formatK_getLsbD, if_neg (by omega), if_neg (by omega), if_neg (by omega),
    if_neg (by omega)]
  simp [hi]

theorem opOf_formatB (op : BitVec 2) (ign : BitVec 64) (v0 v1 : Word) : opOf (formatB op ign v0 v1) = op := by
  apply BitVec.eq_of_getLsbD_eq
  intro i hi
  rw [opOf, BitVec.getLsbD_extractLsb', formatB_getLsbD, if_neg (by omega), if_neg (by omega), if_neg (by omega)]
  simp [hi]

theorem wordOf_formatK (op : BitVec 2) (k0 k1 k2 k3 : Word) :
    wordOf (formatK op k0 k1 k2 k3) 0 = k0 ∧ wordOf (formatK op k0 k1 k2 k3) 1 = k1 ∧
    wordOf (formatK op k0 k1 k2 k3) 2 = k2 ∧ wordOf (formatK op k0 k1 k2 k3) 3 = k3 := by
  refine ⟨?_, ?_, ?_, ?_⟩ <;> apply BitVec.eq_of_getLsbD_eq <;> intro i hi <;>
    rw [wordOf, BitVec.getLsbD_extractLsb', formatK_getLsbD] <;> simp only [hi] <;> (repeat' split) <;>
    first | omega | simp

theorem wordOf_formatB (op : BitVec 2) (ign : BitVec 64) (v0 v1 : Word) :
    wordOf (formatB op ign v0 v1) 0 = v0 ∧ wordOf (formatB op ign v0 v1) 1 = v1 := by
  refine ⟨?_, ?_⟩ <;> apply BitVec.eq_of_getLsbD_eq <;> intro i hi <;>
    rw [wordOf, BitVec.getLsbD_extractLsb', formatB_getLsbD] <;> simp only [hi] <;> (repeat' split) <;>
    first | omega | simp

end Sys2Proof
end

