-- ==== Sys2Proof/Laws/State.lean ====
section
/-!
SUPPORT. What each update of the state does to each field: one lemma per field and update, true by unfolding, so that no
later proof unfolds an update.
-/

namespace Sys2Proof.Machine

/-! tick -/

@[simp] theorem State.tick_k (s : State) : s.tick.k = s.k := rfl
@[simp] theorem State.tick_v (s : State) : s.tick.v = s.v := rfl
@[simp] theorem State.tick_sum (s : State) : s.tick.sum = s.sum := rfl
@[simp] theorem State.tick_rnd (s : State) : s.tick.rnd = s.rnd := rfl
@[simp] theorem State.tick_phase (s : State) : s.tick.phase = s.phase := rfl
@[simp] theorem State.tick_keyValid (s : State) : s.tick.keyValid = s.keyValid := rfl
@[simp] theorem State.tick_inputs (s : State) : s.tick.inputs = s.inputs.tail := rfl
@[simp] theorem State.tick_edge (s : State) : s.tick.edge = s.edge + 1 := rfl
@[simp] theorem State.tick_taken (s : State) : s.tick.taken = s.taken := rfl
@[simp] theorem State.tick_resetSeen (s : State) : s.tick.resetSeen = s.resetSeen := rfl

/-! loadKey -/

@[simp] theorem State.loadKey_k (s : State) (key : Key) : (s.loadKey key).k = key := rfl
@[simp] theorem State.loadKey_v (s : State) (key : Key) : (s.loadKey key).v = s.v := rfl
@[simp] theorem State.loadKey_sum (s : State) (key : Key) : (s.loadKey key).sum = s.sum := rfl
@[simp] theorem State.loadKey_rnd (s : State) (key : Key) : (s.loadKey key).rnd = s.rnd := rfl
@[simp] theorem State.loadKey_phase (s : State) (key : Key) : (s.loadKey key).phase = s.phase := rfl
@[simp] theorem State.loadKey_keyValid (s : State) (key : Key) : (s.loadKey key).keyValid = true := rfl
@[simp] theorem State.loadKey_inputs (s : State) (key : Key) : (s.loadKey key).inputs = s.inputs := rfl
@[simp] theorem State.loadKey_edge (s : State) (key : Key) : (s.loadKey key).edge = s.edge := rfl
@[simp] theorem State.loadKey_taken (s : State) (key : Key) : (s.loadKey key).taken = s.taken := rfl
@[simp] theorem State.loadKey_resetSeen (s : State) (key : Key) : (s.loadKey key).resetSeen = s.resetSeen := rfl

/-! startOperation -/

@[simp] theorem State.startOperation_k (s : State) (direction : Phase) (b : Block) (sum : Word) : (s.startOperation direction b sum).k = s.k := rfl
@[simp] theorem State.startOperation_v (s : State) (direction : Phase) (b : Block) (sum : Word) : (s.startOperation direction b sum).v = b := rfl
@[simp] theorem State.startOperation_sum (s : State) (direction : Phase) (b : Block) (sum : Word) : (s.startOperation direction b sum).sum = sum := rfl
@[simp] theorem State.startOperation_rnd (s : State) (direction : Phase) (b : Block) (sum : Word) : (s.startOperation direction b sum).rnd = 0#6 := rfl
@[simp] theorem State.startOperation_phase (s : State) (direction : Phase) (b : Block) (sum : Word) : (s.startOperation direction b sum).phase = direction := rfl
@[simp] theorem State.startOperation_keyValid (s : State) (direction : Phase) (b : Block) (sum : Word) : (s.startOperation direction b sum).keyValid = s.keyValid := rfl
@[simp] theorem State.startOperation_inputs (s : State) (direction : Phase) (b : Block) (sum : Word) : (s.startOperation direction b sum).inputs = s.inputs := rfl
@[simp] theorem State.startOperation_edge (s : State) (direction : Phase) (b : Block) (sum : Word) : (s.startOperation direction b sum).edge = s.edge := rfl
@[simp] theorem State.startOperation_taken (s : State) (direction : Phase) (b : Block) (sum : Word) : (s.startOperation direction b sum).taken = s.taken := rfl
@[simp] theorem State.startOperation_resetSeen (s : State) (direction : Phase) (b : Block) (sum : Word) : (s.startOperation direction b sum).resetSeen = s.resetSeen := rfl

/-! setWork -/

@[simp] theorem State.setWork_k (s : State) (w : Work) : (s.setWork w).k = s.k := rfl
@[simp] theorem State.setWork_v (s : State) (w : Work) : (s.setWork w).v = { v0 := w.v0, v1 := w.v1 } := rfl
@[simp] theorem State.setWork_sum (s : State) (w : Work) : (s.setWork w).sum = w.sum := rfl
@[simp] theorem State.setWork_rnd (s : State) (w : Work) : (s.setWork w).rnd = s.rnd := rfl
@[simp] theorem State.setWork_phase (s : State) (w : Work) : (s.setWork w).phase = s.phase := rfl
@[simp] theorem State.setWork_keyValid (s : State) (w : Work) : (s.setWork w).keyValid = s.keyValid := rfl
@[simp] theorem State.setWork_inputs (s : State) (w : Work) : (s.setWork w).inputs = s.inputs := rfl
@[simp] theorem State.setWork_edge (s : State) (w : Work) : (s.setWork w).edge = s.edge := rfl
@[simp] theorem State.setWork_taken (s : State) (w : Work) : (s.setWork w).taken = s.taken := rfl
@[simp] theorem State.setWork_resetSeen (s : State) (w : Work) : (s.setWork w).resetSeen = s.resetSeen := rfl

/-! countRound -/

@[simp] theorem State.countRound_k (s : State) : s.countRound.k = s.k := rfl
@[simp] theorem State.countRound_v (s : State) : s.countRound.v = s.v := rfl
@[simp] theorem State.countRound_sum (s : State) : s.countRound.sum = s.sum := rfl
@[simp] theorem State.countRound_rnd (s : State) : s.countRound.rnd = s.rnd + 1#6 := rfl
@[simp] theorem State.countRound_phase (s : State) : s.countRound.phase = if s.rnd + 1#6 = 32#6 then .done else s.phase := rfl
@[simp] theorem State.countRound_keyValid (s : State) : s.countRound.keyValid = s.keyValid := rfl
@[simp] theorem State.countRound_inputs (s : State) : s.countRound.inputs = s.inputs := rfl
@[simp] theorem State.countRound_edge (s : State) : s.countRound.edge = s.edge := rfl
@[simp] theorem State.countRound_taken (s : State) : s.countRound.taken = s.taken := rfl
@[simp] theorem State.countRound_resetSeen (s : State) : s.countRound.resetSeen = s.resetSeen := rfl

/-! takeResult -/

@[simp] theorem State.takeResult_k (s : State) : s.takeResult.k = s.k := rfl
@[simp] theorem State.takeResult_v (s : State) : s.takeResult.v = s.v := rfl
@[simp] theorem State.takeResult_sum (s : State) : s.takeResult.sum = s.sum := rfl
@[simp] theorem State.takeResult_rnd (s : State) : s.takeResult.rnd = s.rnd := rfl
@[simp] theorem State.takeResult_phase (s : State) : s.takeResult.phase = .idle := rfl
@[simp] theorem State.takeResult_keyValid (s : State) : s.takeResult.keyValid = s.keyValid := rfl
@[simp] theorem State.takeResult_inputs (s : State) : s.takeResult.inputs = s.inputs := rfl
@[simp] theorem State.takeResult_edge (s : State) : s.takeResult.edge = s.edge := rfl
@[simp] theorem State.takeResult_taken (s : State) : s.takeResult.taken = s.taken ++ [blockVector s.v] := rfl
@[simp] theorem State.takeResult_resetSeen (s : State) : s.takeResult.resetSeen = s.resetSeen := rfl

/-! resetStep -/

@[simp] theorem State.resetStep_k (s : State) : s.resetStep.k = Config.kReset s.edge s.k := rfl
@[simp] theorem State.resetStep_v (s : State) : s.resetStep.v = Config.vReset s.edge s.v := rfl
@[simp] theorem State.resetStep_sum (s : State) : s.resetStep.sum = Config.sumReset s.edge s.sum := rfl
@[simp] theorem State.resetStep_rnd (s : State) : s.resetStep.rnd = Config.rndReset s.edge s.rnd := rfl
@[simp] theorem State.resetStep_phase (s : State) : s.resetStep.phase = .idle := rfl
@[simp] theorem State.resetStep_keyValid (s : State) : s.resetStep.keyValid = false := rfl
@[simp] theorem State.resetStep_inputs (s : State) : s.resetStep.inputs = s.inputs := rfl
@[simp] theorem State.resetStep_edge (s : State) : s.resetStep.edge = s.edge := rfl
@[simp] theorem State.resetStep_taken (s : State) : s.resetStep.taken = s.taken := rfl
@[simp] theorem State.resetStep_resetSeen (s : State) : s.resetStep.resetSeen = true := rfl

/-! stayUnspecified -/

@[simp] theorem State.stayUnspecified_k (s : State) : s.stayUnspecified.k = Config.kPowerUp s.edge := rfl
@[simp] theorem State.stayUnspecified_v (s : State) : s.stayUnspecified.v = Config.vPowerUp s.edge := rfl
@[simp] theorem State.stayUnspecified_sum (s : State) : s.stayUnspecified.sum = Config.sumPowerUp s.edge := rfl
@[simp] theorem State.stayUnspecified_rnd (s : State) : s.stayUnspecified.rnd = Config.rndPowerUp s.edge := rfl
@[simp] theorem State.stayUnspecified_phase (s : State) : s.stayUnspecified.phase = Config.phasePowerUp s.edge := rfl
@[simp] theorem State.stayUnspecified_keyValid (s : State) : s.stayUnspecified.keyValid = Config.keyValidPowerUp s.edge := rfl
@[simp] theorem State.stayUnspecified_inputs (s : State) : s.stayUnspecified.inputs = s.inputs := rfl
@[simp] theorem State.stayUnspecified_edge (s : State) : s.stayUnspecified.edge = s.edge := rfl
@[simp] theorem State.stayUnspecified_taken (s : State) : s.stayUnspecified.taken = s.taken := rfl
@[simp] theorem State.stayUnspecified_resetSeen (s : State) : s.stayUnspecified.resetSeen = s.resetSeen := rfl

/-! The working registers and the pins -/

@[simp] theorem State.work_v0 (s : State) : s.work.v0 = s.v.v0 := rfl
@[simp] theorem State.work_v1 (s : State) : s.work.v1 = s.v.v1 := rfl
@[simp] theorem State.work_sum (s : State) : s.work.sum = s.sum := rfl
@[simp] theorem State.tick_work (s : State) : s.tick.work = s.work := rfl
@[simp] theorem State.setWork_work (s : State) (w : Work) : (s.setWork w).work = w := rfl
@[simp] theorem State.countRound_work (s : State) : s.countRound.work = s.work := rfl

theorem State.pins_nil {s : State} (h : s.inputs = []) :
    s.pins = { quietEdge with roundDue := roundDueAt s.edge } := by simp [State.pins, h]
theorem State.pins_cons {s : State} {e : Edge} {es : List Edge} (h : s.inputs = e :: es) : s.pins = e := by
  simp [State.pins, h]

end Sys2Proof.Machine
end

