-- ==== Sys2Proof/Laws/Ops.lean ====
section
/-!
SUPPORT. One lemma for each shared operation that says everything it can do, to be cited instead of unfolding it.
-/

namespace Sys2Proof.Machine

/-- Everything the issue rule can answer. -/
theorem issueWhenReady_cases (s effect : State) (needsKey : Bool) :
    (s.resetSeen = false ∧ issueWhenReady s needsKey effect = .refused .beforeFirstReset) ∨
    (s.resetSeen = true ∧ s.phase ≠ .idle ∧ issueWhenReady s needsKey effect = .next s) ∨
    (s.resetSeen = true ∧ s.phase = .idle ∧ needsKey = true ∧ s.keyValid = false ∧
      issueWhenReady s needsKey effect = .refused .keyNotLoaded) ∨
    (s.resetSeen = true ∧ s.phase = .idle ∧ (needsKey = true → s.keyValid = true) ∧
      issueWhenReady s needsKey effect = .next effect) := by
  unfold issueWhenReady
  rcases hr : s.resetSeen with _ | _
  · simp
  · by_cases hp : s.phase = .idle
    · cases needsKey <;> cases hk : s.keyValid <;> simp [hp]
    · simp [hp]

theorem issueWhenReady_early {s effect : State} {needsKey : Bool} (h : s.resetSeen = false) :
    issueWhenReady s needsKey effect = .refused .beforeFirstReset := by simp [issueWhenReady, h]

theorem issueWhenReady_busy {s effect : State} {needsKey : Bool} (h : s.resetSeen = true) (hp : s.phase ≠ .idle) :
    issueWhenReady s needsKey effect = .next s := by simp [issueWhenReady, h, hp]

theorem issueWhenReady_noKey {s effect : State} (h : s.resetSeen = true) (hp : s.phase = .idle)
    (hk : s.keyValid = false) : issueWhenReady s true effect = .refused .keyNotLoaded := by
  simp [issueWhenReady, h, hp, hk]

theorem issueWhenReady_issues {s effect : State} {needsKey : Bool} (h : s.resetSeen = true) (hp : s.phase = .idle)
    (hk : needsKey = true → s.keyValid = true) : issueWhenReady s needsKey effect = .next effect := by
  cases needsKey <;> simp_all [issueWhenReady]

/-- Each instruction's meaning is the issue rule with its own effect. -/
theorem exec_setkey (k0 k1 k2 k3 : Word) (s : State) :
    exec (.setkey k0 k1 k2 k3) s = issueWhenReady s false (s.loadKey { k0 := k0, k1 := k1, k2 := k2, k3 := k3 }) := rfl

theorem exec_encrypt (v0 v1 : Word) (s : State) :
    exec (.encrypt v0 v1) s = issueWhenReady s true (s.startOperation .enc { v0 := v0, v1 := v1 } sumEncInit) := rfl

theorem exec_decrypt (v0 v1 : Word) (s : State) :
    exec (.decrypt v0 v1) s = issueWhenReady s true (s.startOperation .dec { v0 := v0, v1 := v1 } sumDecInit) := rfl

theorem exec_reserved00 (s : State) : exec .reserved00 s = .refused .reservedOpcode := rfl

/-- The opcode of the command offered at an edge is `cmd_op` (30_encoding.md R70). -/
theorem opOf_commandOf (e : Edge) : opOf (commandOf e) = e.cmdOp := by
  apply BitVec.eq_of_getLsbD_eq
  intro i hi
  have h : i < 2 := hi
  rw [opOf, commandOf, BitVec.getLsbD_extractLsb', BitVec.getLsbD_append, if_neg (by omega), Nat.add_sub_cancel_left]
  simp [h]

/-- Word `i` of the operand offered at an edge is word `i` of `cmd_data` (R70, 20_memory.md R52). -/
theorem wordOf_commandOf (e : Edge) (i : Nat) (h : i < 4) :
    wordOf (commandOf e) i = e.cmdData.extractLsb' (32 * i) 32 := by
  apply BitVec.eq_of_getLsbD_eq
  intro j hj
  rw [wordOf, commandOf, BitVec.getLsbD_extractLsb', BitVec.getLsbD_append, if_pos (by omega), BitVec.getLsbD_extractLsb']

/-- The command offered by `offerEdge` is the word it was made from (R70). -/
theorem commandOf_offerEdge (cw : CommandWord) : commandOf (offerEdge cw) = cw := by
  apply BitVec.eq_of_getLsbD_eq
  intro i hi
  rw [commandOf, BitVec.getLsbD_append]
  split
  · next h => simp [offerEdge, h]
  · next h =>
    have h2 : i - 128 < 2 := by omega
    have h3 : 128 + (i - 128) = i := by omega
    simp [offerEdge, h2, h3]

/-- Which event an edge is, after the first reset and with `rst = 0`. -/
theorem edgeEvent_live {s : State} {e : Edge} (h : s.resetSeen = true) (hr : e.rst = false) :
    edgeEvent s e =
      match s.phase with
      | .idle => if e.cmdValid = true then .issue (commandOf e) else .hold
      | .enc => if e.roundDue = true then .encRound else .hold
      | .dec => if e.roundDue = true then .decRound else .hold
      | .done => if e.resReady = true then .take else .hold := by
  cases hp : s.phase <;> simp [edgeEvent, h, hr, hp]

theorem edgeEvent_reset {s : State} {e : Edge} (h : e.rst = true) : edgeEvent s e = .reset := by
  simp [edgeEvent, h]

/-- The outputs after the first reset. -/
theorem outputs_live {s : State} (h : s.resetSeen = true) :
    s.outputs = { cmdReady := s.cmdReady, resValid := s.resValid, resData := s.resData, keyValid := s.keyValid } := by
  simp [State.outputs, h]

theorem repeatTimes_succ {α : Type} (f : α → α) (n : Nat) (x : α) :
    repeatTimes f (n + 1) x = repeatTimes f n (f x) := rfl

/-- The last round can be taken off at the other end. -/
theorem repeatTimes_succ_outer {α : Type} (f : α → α) (n : Nat) (x : α) :
    repeatTimes f (n + 1) x = f (repeatTimes f n x) := by
  induction n generalizing x with
  | zero => rfl
  | succ n ih => rw [repeatTimes_succ, ih, repeatTimes_succ]

end Sys2Proof.Machine
end

