-- ==== Sys2Proof/Laws/Pace.lean ====
section
/-!
SUPPORT. The pace past the end of the host's list is fair (70_reset_and_hazards.md R240).
-/

namespace Sys2Proof.Machine

theorem le_roundEnd (i : Nat) : i ≤ roundEnd i := by
  induction i with
  | zero => exact Nat.zero_le _
  | succ i ih => rw [roundEnd]; omega

/-- A round completes exactly at the edges `roundEnd` names. -/
theorem roundDueAt_iff (edge : Nat) : roundDueAt edge = true ↔ ∃ i, roundEnd i = edge := by
  unfold roundDueAt
  rw [List.any_eq_true]
  constructor
  · rintro ⟨i, -, h⟩
    exact ⟨i, of_decide_eq_true h⟩
  · rintro ⟨i, h⟩
    refine ⟨i, List.mem_range.mpr ?_, decide_eq_true h⟩
    have := le_roundEnd i
    omega

theorem pace_is_fair : PaceIsFair := fun n => ⟨roundEnd n, le_roundEnd n, (roundDueAt_iff _).mpr ⟨n, rfl⟩⟩

end Sys2Proof.Machine
end

