-- ==== Sys2Proof/Laws/PerInstr.lean ====
section
/-!
SUPPORT. A statement made per instruction, about its syntax: the opcode field of its word is its opcode (30_encoding.md
R70, R72: the format is decided by `cmd_op` alone).
-/

namespace Sys2Proof.Laws.OpcodeField

/-- The word of `i` carries `i`'s opcode in `CW[129:128]`. -/
def Statement (i : Instr) : Prop := opOf (encode i) = i.opcode

theorem setkey (k0 k1 k2 k3 : Word) : Statement (.setkey k0 k1 k2 k3) := opOf_formatK 1#2 k0 k1 k2 k3

theorem encrypt (v0 v1 : Word) : Statement (.encrypt v0 v1) := opOf_formatB 2#2 0#64 v0 v1

theorem decrypt (v0 v1 : Word) : Statement (.decrypt v0 v1) := opOf_formatB 3#2 0#64 v0 v1

theorem reserved00 : Statement .reserved00 := opOf_formatB 0#2 0#64 0#32 0#32

end Sys2Proof.Laws.OpcodeField
end

