-- ==== Sys2Proof/Laws/Step.lean ====
section
/-!
SUPPORT. What a step can do, said once, and how a run of several steps is cut.
-/

namespace Sys2Proof.Machine

/-- The inversion of a step that answers a next state: which row of the step relation was taken and what it did. -/
theorem step_next_cases {s t : State} (h : step s = .next t) :
    (s.pins.rst = true ∧ t = s.tick.resetStep) ∨
    (s.pins.rst = false ∧ s.resetSeen = false ∧ s.pins.cmdValid = false ∧ s.pins.resReady = false ∧
      t = s.tick.stayUnspecified) ∨
    (s.pins.rst = false ∧ s.resetSeen = true ∧
      ((s.phase = .idle ∧ s.pins.cmdValid = true ∧ exec (decode (commandOf s.pins)) s.tick = .next t) ∨
       (s.phase = .enc ∧ s.pins.roundDue = true ∧ t = s.tick.encRoundStep) ∨
       (s.phase = .dec ∧ s.pins.roundDue = true ∧ t = s.tick.decRoundStep) ∨
       (s.phase = .done ∧ s.pins.resReady = true ∧ t = s.tick.takeResult) ∨
       (t = s.tick ∧ (s.phase = .idle → s.pins.cmdValid = false) ∧ (s.phase = .enc ∨ s.phase = .dec → s.pins.roundDue = false) ∧
         (s.phase = .done → s.pins.resReady = false)))) := by
  unfold step edgeEvent at h
  cases hr : s.pins.rst <;> cases hs : s.resetSeen <;> cases hp : s.phase <;> cases hc : s.pins.cmdValid <;>
    cases hy : s.pins.resReady <;> cases hd : s.pins.roundDue <;> simp_all

/-- What an instruction that answers a next state did: it issued with its effect, or the core was busy. -/
theorem exec_next_cases {i : Instr} {s t : State} (h : exec i s = .next t) :
    s.resetSeen = true ∧
    ((s.phase ≠ .idle ∧ t = s ∧ i ≠ .reserved00) ∨
     (s.phase = .idle ∧ ∃ k0 k1 k2 k3, i = .setkey k0 k1 k2 k3 ∧
       t = s.loadKey { k0 := k0, k1 := k1, k2 := k2, k3 := k3 }) ∨
     (s.phase = .idle ∧ s.keyValid = true ∧ ∃ v0 v1, i = .encrypt v0 v1 ∧
       t = s.startOperation .enc { v0 := v0, v1 := v1 } sumEncInit) ∨
     (s.phase = .idle ∧ s.keyValid = true ∧ ∃ v0 v1, i = .decrypt v0 v1 ∧
       t = s.startOperation .dec { v0 := v0, v1 := v1 } sumDecInit)) := by
  cases i with
  | setkey k0 k1 k2 k3 =>
    rw [exec_setkey] at h
    rcases issueWhenReady_cases s (s.loadKey { k0 := k0, k1 := k1, k2 := k2, k3 := k3 }) false with
      ⟨hr, he⟩ | ⟨hr, hp, he⟩ | ⟨hr, hp, hk, -, he⟩ | ⟨hr, hp, hk, he⟩ <;> rw [he] at h <;> simp_all
  | encrypt v0 v1 =>
    rw [exec_encrypt] at h
    rcases issueWhenReady_cases s (s.startOperation .enc { v0 := v0, v1 := v1 } sumEncInit) true with
      ⟨hr, he⟩ | ⟨hr, hp, he⟩ | ⟨hr, hp, hk, -, he⟩ | ⟨hr, hp, hk, he⟩ <;> rw [he] at h <;> simp_all
  | decrypt v0 v1 =>
    rw [exec_decrypt] at h
    rcases issueWhenReady_cases s (s.startOperation .dec { v0 := v0, v1 := v1 } sumDecInit) true with
      ⟨hr, he⟩ | ⟨hr, hp, he⟩ | ⟨hr, hp, hk, -, he⟩ | ⟨hr, hp, hk, he⟩ <;> rw [he] at h <;> simp_all
  | reserved00 => cases h

/-- Where a command issues, the step is its meaning on the state with the edge used up. -/
theorem step_issue {s : State} (hr : s.pins.rst = false) (hv : s.pins.cmdValid = true) (hs : s.resetSeen = true)
    (hp : s.phase = .idle) : step s = exec (decode (commandOf s.pins)) s.tick := by
  simp [step, edgeEvent, hr, hv, hs, hp]

theorem run_zero (s : State) : Sys2Proof.core.run 0 s = .next s := rfl

/-- One step of a run, for any machine behind the host's interface. -/
theorem core_run_succ (M : Host.Core) (n : Nat) {s t : M.State} (h : M.step s = .next t) :
    M.run (n + 1) s = M.run n t := by
  rw [Host.Core.run, h]

theorem core_run_succ_refused (M : Host.Core) (n : Nat) {s : M.State} {r : M.Refusal} (h : M.step s = .refused r) :
    M.run (n + 1) s = .refused r := by
  rw [Host.Core.run, h]

/-- A run whose first step answers a next state goes on from there. -/
theorem run_succ {s t : State} (n : Nat) (h : step s = .next t) :
    Sys2Proof.core.run (n + 1) s = Sys2Proof.core.run n t := core_run_succ Sys2Proof.core n h

/-- A run whose first step is refused is refused. -/
theorem run_succ_refused {s : State} {r : Refusal} (n : Nat) (h : step s = .refused r) :
    Sys2Proof.core.run (n + 1) s = .refused r := core_run_succ_refused Sys2Proof.core n h

/-- A run of `m + n` steps is a run of `n` steps after a run of `m`. -/
theorem run_add {s t : State} {m : Nat} (n : Nat) (h : Sys2Proof.core.run m s = .next t) :
    Sys2Proof.core.run (m + n) s = Sys2Proof.core.run n t := by
  induction m generalizing s with
  | zero => cases h; simp
  | succ m ih =>
    rw [Nat.add_right_comm]
    cases hs : step s with
    | next u =>
      rw [run_succ m hs] at h
      rw [run_succ (m + n) hs]
      exact ih h
    | fault r => cases r
    | refused r =>
      rw [run_succ_refused m hs] at h
      cases h

end Sys2Proof.Machine
end

