-- ==== Sys2Proof/Laws/Run.lean ====
section
/-!
SUPPORT. Runs of any number of steps (`RunWithin`) and edges at which nothing happens.
-/

namespace Sys2Proof.Machine

/-- What every step of a run keeps holds at its end. -/
theorem runWithin_invariant {P Q : State → Prop} {s t : State} (h : RunWithin P s t)
    (keep : ∀ a b, P a → Q a → step a = .next b → Q b) (hs : Q s) : Q t := by
  induction h with
  | stay => exact hs
  | go ok first _ ih => exact ih (keep _ _ ok hs first)

/-- In `IDLE`, after the first reset, an edge without a reset and without a command changes nothing (10_state.md R39). -/
theorem step_idle_quiet {s : State} (hs : s.resetSeen = true) (hp : s.phase = .idle) (hr : s.pins.rst = false)
    (hv : s.pins.cmdValid = false) : step s = .next s.tick := by
  simp [step, edgeEvent, hs, hp, hr, hv]

/-- A run of one step is a step. -/
theorem run_one {s t : State} (h : step s = .next t) : Sys2Proof.core.run 1 s = .next t := run_succ 0 h

/-- The step at a take (10_state.md R43). -/
theorem step_takes {s : State} (h : s.Takes) : step s = .next s.tick.takeResult := by
  obtain ⟨hs, hp, hr, hy⟩ := h
  simp [step, edgeEvent, hs, hp, hr, hy]

/-- The step at an issue (10_state.md R42). -/
theorem step_issues {s : State} {i : Instr} (h : s.Issues i) : step s = exec i s.tick := by
  obtain ⟨hs, hp, hr, hv, hd⟩ := h
  rw [step_issue hr hv hs hp, hd]

end Sys2Proof.Machine
end

