-- ==== Sys2Proof/Laws/Schedule.lean ====
section
/-!
SUPPORT. The values of `SUM` as numbers (40_key_schedule.md R107), stated so that no later proof unfolds the constant.
-/

namespace Sys2Proof.Machine

theorem sumAt_toNat (i : Nat) : (sumAt i).toNat = i * 2654435769 % 4294967296 := by
  rw [sumAt, BitVec.toNat_ofNat]
  rfl

/-- One more multiple of a word, for any word: the constant stays folded. -/
theorem ofNat_succ_mul_toNat (d : Word) (i : Nat) :
    BitVec.ofNat 32 ((i + 1) * d.toNat) = BitVec.ofNat 32 (i * d.toNat) + d := by
  rw [Nat.add_mul, BitVec.ofNat_add]
  simp

end Sys2Proof.Machine
end

