-- ==== Sys2Proof/Tests/Slice0.lean ====
section
/-!
SUPPORT. Tests: expected values are the spec's (95_test_vectors.md unless another file is named), each about one function or
one step; and for every statement with hypotheses a theorem that shows a concrete state and operands meeting them.
-/

namespace Sys2Proof.Machine

/-! Small states and readers of an outcome -/

/-- The known key (95_test_vectors.md section 1.1). -/
def knownKey : Key := { k0 := 0xABCDEFAB#32, k1 := 0xCDEFABCD#32, k2 := 0xEFABCDEF#32, k3 := 0xABCDEFAB#32 }

/-- The known plaintext (95_test_vectors.md section 1.1). -/
def knownBlock : Block := { v0 := 0x12300325#32, v1 := 0x89646238#32 }

/-- A state after the first reset, with the known key and block in the registers. -/
def live (phase : Phase) (rnd : BitVec 6) (sum : Word) (keyValid : Bool) (inputs : List Edge) : State :=
  { k := knownKey, v := knownBlock, sum := sum, rnd := rnd, phase := phase, keyValid := keyValid, inputs := inputs, edge := 1,
    taken := [], resetSeen := true }

/-- The next state of an outcome, if it is one. -/
def nextOf (o : Host.Outcome State Fault Refusal) : Option State :=
  match o with
  | .next s => some s
  | .fault _ => none
  | .refused _ => none

/-- The refusal of an outcome, if it is one. -/
def refusalOf (o : Host.Outcome State Fault Refusal) : Option Refusal :=
  match o with
  | .next _ => none
  | .fault _ => none
  | .refused r => some r

/-! Well-formedness: the reserved code is no command (30_encoding.md R82, R83), every operand is legal (R77) -/

theorem test_wellFormed_refuses_the_reserved_code : Instr.wellFormed .reserved00 = false := by decide

theorem test_wellFormed_takes_every_command :
    Instr.wellFormed (.setkey 0#32 0#32 0#32 0#32) = true ∧ Instr.wellFormed (.encrypt 0xFFFFFFFF#32 0#32) = true ∧
    Instr.wellFormed (.decrypt 0#32 0xFFFFFFFF#32) = true := by decide

/-! Decoding: words written out from the spec's encodings (30_encoding.md R71, R79; 95_test_vectors.md section 7) -/

theorem test_decode_setkey :
    decode 0x1ABCDEFABEFABCDEFCDEFABCDABCDEFAB#130 = .setkey 0xABCDEFAB#32 0xCDEFABCD#32 0xEFABCDEF#32 0xABCDEFAB#32 := by decide

/-- P3 move 2: the written form lists `k[3]` first. -/
theorem test_decode_setkey_order :
    decode 0x100000004000000030000000200000001#130 = .setkey 1#32 2#32 3#32 4#32 := by decide

theorem test_decode_encrypt : decode 0x200000000000000008964623812300325#130 = .encrypt 0x12300325#32 0x89646238#32 := by decide

/-- P3 move 9: the ignored field all ones. -/
theorem test_decode_encrypt_ignores : decode 0x2FFFFFFFFFFFFFFFF0000000000000000#130 = .encrypt 0#32 0#32 := by decide

theorem test_decode_decrypt : decode 0x300000000000000004F7EA0CE0920FDA2#130 = .decrypt 0x0920FDA2#32 0x4F7EA0CE#32 := by decide

/-- P5 c. -/
theorem test_decode_reserved : decode 0x000000000000000000000000000000000#130 = .reserved00 := by decide

theorem test_encode_setkey : encode (.setkey 1#32 2#32 3#32 4#32) = 0x100000004000000030000000200000001#130 := by decide

theorem test_encode_decrypt : encode (.decrypt 0x0920FDA2#32 0x4F7EA0CE#32) = 0x300000000000000004F7EA0CE0920FDA2#130 := by decide

theorem test_table_word : decodeTableWord 136 0x200000000000000008964623812300325 = some (.encrypt 0x12300325#32 0x89646238#32) := by
  decide

/-- A bit above `CW[129]`: no command word (30_encoding.md R70). -/
theorem test_table_word_too_wide : decodeTableWord 136 0x400000000000000008964623812300325 = none := by decide

/-! Byte fixtures (20_memory.md R53; 95_test_vectors.md sections 1.1 and P4) -/

theorem test_key_bytes :
    keyOfBytes #v[0xAB#8, 0xEF#8, 0xCD#8, 0xAB#8, 0xCD#8, 0xAB#8, 0xEF#8, 0xCD#8, 0xEF#8, 0xCD#8, 0xAB#8, 0xEF#8, 0xAB#8, 0xEF#8,
      0xCD#8, 0xAB#8] = knownKey := by decide

theorem test_block_bytes :
    blockOfBytes #v[0x25#8, 0x03#8, 0x30#8, 0x12#8, 0x38#8, 0x62#8, 0x64#8, 0x89#8] = knownBlock ∧
    bytesOfBlock { v0 := 0x0920FDA2#32, v1 := 0x4F7EA0CE#32 } = #v[0xA2#8, 0xFD#8, 0x20#8, 0x09#8, 0xCE#8, 0xA0#8, 0x7E#8, 0x4F#8] := by
  decide

/-! Arithmetic and the round function (41_round_function.md R120 to R135; 95_test_vectors.md sections 2 and 3) -/

theorem test_add_sub_corners :
    add32 0xFFFFFFFF#32 1#32 = 0#32 ∧ add32 0x89646238#32 0xA1CF941F#32 = 0x2B33F657#32 ∧ sub32 0#32 1#32 = 0xFFFFFFFF#32 ∧
    sub32 0#32 0x9E3779B9#32 = 0x61C88647#32 := by decide

theorem test_shift_corners :
    shl32 0xF0000000#32 4 = 0#32 ∧ shl32 0x0FFFFFFF#32 4 = 0xFFFFFFF0#32 ∧ shr32 0x80000000#32 5 = 0x04000000#32 ∧
    shr32 0x9E3779B9#32 11 = 0x0013C6EF#32 := by decide

/-- Section 2.1: the rows that tell a logical from an arithmetic shift and a shift from a rotate. -/
theorem test_mix :
    mix 0x80000000#32 = 0x84000000#32 ∧ mix 0x10000000#32 = 0x10800000#32 ∧ mix 0x7FFFFFFF#32 = 0x7C00000E#32 ∧
    mix 0x12300325#32 = 0x35C1B56E#32 ∧ mix 0x89646238#32 = 0x1B7162C9#32 ∧ mix 0xDEADBEEF#32 = 0xCADC41F6#32 := by decide

/-- Section 2.2. -/
theorem test_roundF :
    roundF 0x89646238#32 0xABCDEFAB#32 = 0xB0BC8D62#32 ∧ roundF 0xDEADBEEF#32 (add32 0xC6EF3720#32 0x01234567#32) = 0x02CE3D71#32 := by
  decide

/-- 40_key_schedule.md R107: `S[i]`, `idxA(S[i])`, `idxB(S[i])` from row 0 on. -/
theorem test_schedule_from_0 :
    (List.range 8).map (fun i => (sumAt (0 + i), (idxA (sumAt (0 + i))).toNat, (idxB (sumAt (0 + i))).toNat)) =
      [(0x00000000#32, 0, 0), (0x9E3779B9#32, 1, 3), (0x3C6EF372#32, 2, 2), (0xDAA66D2B#32, 3, 1),
       (0x78DDE6E4#32, 0, 0), (0x1715609D#32, 1, 0), (0xB54CDA56#32, 2, 3), (0x5384540F#32, 3, 2)] := by decide

/-- 40_key_schedule.md R107: `S[i]`, `idxA(S[i])`, `idxB(S[i])` from row 8 on. -/
theorem test_schedule_from_8 :
    (List.range 8).map (fun i => (sumAt (8 + i), (idxA (sumAt (8 + i))).toNat, (idxB (sumAt (8 + i))).toNat)) =
      [(0xF1BBCDC8#32, 0, 1), (0x8FF34781#32, 1, 0), (0x2E2AC13A#32, 2, 0), (0xCC623AF3#32, 3, 3),
       (0x6A99B4AC#32, 0, 2), (0x08D12E65#32, 1, 1), (0xA708A81E#32, 2, 1), (0x454021D7#32, 3, 0)] := by decide

/-- 40_key_schedule.md R107: `S[i]`, `idxA(S[i])`, `idxB(S[i])` from row 16 on. -/
theorem test_schedule_from_16 :
    (List.range 8).map (fun i => (sumAt (16 + i), (idxA (sumAt (16 + i))).toNat, (idxB (sumAt (16 + i))).toNat)) =
      [(0xE3779B90#32, 0, 3), (0x81AF1549#32, 1, 2), (0x1FE68F02#32, 2, 1), (0xBE1E08BB#32, 3, 1),
       (0x5C558274#32, 0, 0), (0xFA8CFC2D#32, 1, 3), (0x98C475E6#32, 2, 2), (0x36FBEF9F#32, 3, 1)] := by decide

/-- 40_key_schedule.md R107: `S[i]`, `idxA(S[i])`, `idxB(S[i])` from row 24 on. -/
theorem test_schedule_from_24 :
    (List.range 8).map (fun i => (sumAt (24 + i), (idxA (sumAt (24 + i))).toNat, (idxB (sumAt (24 + i))).toNat)) =
      [(0xD5336958#32, 0, 1), (0x736AE311#32, 1, 0), (0x11A25CCA#32, 2, 3), (0xAFD9D683#32, 3, 2),
       (0x4E11503C#32, 0, 2), (0xEC48C9F5#32, 1, 1), (0x8A8043AE#32, 2, 0), (0x28B7BD67#32, 3, 3)] := by decide

/-- 40_key_schedule.md R107: `S[i]`, `idxA(S[i])`, `idxB(S[i])` from row 32 on. -/
theorem test_schedule_from_32 :
    (List.range 1).map (fun i => (sumAt (32 + i), (idxA (sumAt (32 + i))).toNat, (idxB (sumAt (32 + i))).toNat)) =
      [(0xC6EF3720#32, 0, 2)] := by decide

/-- Section 3.2, rows 2, 3, 13 and 14. -/
theorem test_micro_operations :
    (encA knownKey { v0 := 0xC2EC9087#32, v1 := 0x2B33F657#32, sum := 0x9E3779B9#32 }).v0 = 0x74AA6526#32 ∧
    (encB knownKey { v0 := 0xC2EC9087#32, v1 := 0x89646238#32, sum := 0x9E3779B9#32 }).v1 = 0x2B33F657#32 ∧
    (decB knownKey { v0 := 0x0920FDA2#32, v1 := 0x4F7EA0CE#32, sum := 0xC6EF3720#32 }).v1 = 0x2181C26E#32 ∧
    (decA knownKey { v0 := 0x0920FDA2#32, v1 := 0x2181C26E#32, sum := 0x28B7BD67#32 }).v0 = 0x1B0CB72F#32 := by decide

/-! Whole blocks (95_test_vectors.md sections 3.3 and 1.2) -/

theorem test_enc_known : enc knownKey knownBlock = { v0 := 0x0920FDA2#32, v1 := 0x4F7EA0CE#32 } := by decide

theorem test_enc_zero :
    enc { k0 := 0#32, k1 := 0#32, k2 := 0#32, k3 := 0#32 } { v0 := 0#32, v1 := 0#32 } = { v0 := 0xDEE9D4D8#32, v1 := 0xF7131ED9#32 } := by
  decide

theorem test_enc_distinct_key_words :
    enc { k0 := 0x01234567#32, k1 := 0x89ABCDEF#32, k2 := 0xFEDCBA98#32, k3 := 0x76543210#32 } { v0 := 0xDEADBEEF#32, v1 := 0xCAFEBABE#32 } =
      { v0 := 0x26DF93A4#32, v1 := 0xCB5C30A9#32 } := by decide

theorem test_dec_known : dec knownKey knownBlock = { v0 := 0x8BE64606#32, v1 := 0xF38F3F68#32 } := by decide +kernel

theorem test_dec_distinct_key_words :
    dec { k0 := 0x01234567#32, k1 := 0x89ABCDEF#32, k2 := 0xFEDCBA98#32, k3 := 0x76543210#32 } { v0 := 0xDEADBEEF#32, v1 := 0xCAFEBABE#32 } =
      { v0 := 0x2E4E9B05#32, v1 := 0x3C6864C4#32 } := by decide +kernel

/-! Single steps (95_test_vectors.md section 7) -/

/-- P1 move 2, from the launch state. -/
theorem test_step_setkey_from_reset :
    (nextOf (step (State.reset.withFetchWord 130 0x1ABCDEFABEFABCDEFCDEFABCDABCDEFAB))).map (fun t => (t.k, t.keyValid, t.phase)) =
      some (knownKey, true, .idle) := by decide

/-- P1 move 3, the issue. -/
theorem test_step_encrypt_issue :
    (nextOf (step ((live .idle 7#6 5#32 true []).withFetchWord 136 0x200000000000000008964623812300325))).map
      (fun t => (t.v, t.sum, t.rnd, t.phase)) = some (knownBlock, 0#32, 0#6, .enc) := by decide

/-- P1 move 5, the issue. -/
theorem test_step_decrypt_issue :
    (nextOf (step ((live .idle 7#6 5#32 true []).withFetchWord 130 0x300000000000000004F7EA0CE0920FDA2))).map
      (fun t => (t.v, t.sum, t.rnd, t.phase)) = some ({ v0 := 0x0920FDA2#32, v1 := 0x4F7EA0CE#32 }, 0xC6EF3720#32, 0#6, .dec) := by decide

/-- P5 a: `ENCRYPT` right after reset is refused. -/
theorem test_step_encrypt_after_reset_is_refused :
    refusalOf (step (State.reset.withFetchWord 130 0x200000000000000000000000000000000)) = some .keyNotLoaded := by decide

/-- P5 b: so is `DECRYPT` once reset has cleared `KEYVALID`. -/
theorem test_step_decrypt_after_reset_is_refused :
    refusalOf (step (State.withFetchWord (State.resetStep (live .idle 0#6 0#32 true [])) 130 0x300000000000000000000000000000000)) =
      some .keyNotLoaded := by decide

/-- P5 c: opcode `0b00` is refused. -/
theorem test_step_reserved_is_refused :
    refusalOf (step (State.reset.withFetchWord 130 0x000000000000000000000000000000000)) = some .reservedOpcode := by decide

/-- P5 d: no launch state before the first reset. -/
theorem test_step_before_reset_is_refused :
    refusalOf (step { live .idle 0#6 0#32 true [offerEdge 0x100000000000000000000000000000000#130] with resetSeen := false }) =
      some .beforeFirstReset := by decide

/-- 10_state.md R42, 60_exceptions.md R193: opcode `0b00` offered while the core is busy does no harm. -/
theorem test_reserved_offered_while_busy :
    (nextOf (step (live .done 32#6 0xC6EF3720#32 true [offerEdge 0x000000000000000000000000000000000#130]))).map (fun t => (t.v, t.phase)) =
      some (knownBlock, .done) := by decide

/-- P1 move 3 after one round step. -/
theorem test_step_encrypt_round :
    (nextOf (step (live .enc 0#6 0#32 true [roundEdge]))).map (fun t => (t.v, t.sum, t.rnd, t.phase)) =
      some ({ v0 := 0xC2EC9087#32, v1 := 0x2B33F657#32 }, 0x9E3779B9#32, 1#6, .enc) := by decide

/-- Section 4.1, the last round. -/
theorem test_step_encrypt_last_round :
    (nextOf (step { live .enc 31#6 0x28B7BD67#32 true [roundEdge] with v := { v0 := 0x1B0CB72F#32, v1 := 0x2181C26E#32 } })).map
      (fun t => (t.v, t.sum, t.rnd, t.phase)) =
      some ({ v0 := 0x0920FDA2#32, v1 := 0x4F7EA0CE#32 }, 0xC6EF3720#32, 32#6, .done) := by decide

/-- P1 move 5 after one round step. -/
theorem test_step_decrypt_round :
    (nextOf (step { live .dec 0#6 0xC6EF3720#32 true [roundEdge] with v := { v0 := 0x0920FDA2#32, v1 := 0x4F7EA0CE#32 } })).map
      (fun t => (t.v, t.sum, t.rnd, t.phase)) =
      some ({ v0 := 0x1B0CB72F#32, v1 := 0x2181C26E#32 }, 0x28B7BD67#32, 1#6, .dec) := by decide

/-- P1 move 4. -/
theorem test_step_take :
    (nextOf (step { live .done 32#6 0xC6EF3720#32 true [takeEdge] with v := { v0 := 0x0920FDA2#32, v1 := 0x4F7EA0CE#32 } })).map
      (fun t => (t.taken, t.phase, t.rnd)) = some ([0x4F7EA0CE0920FDA2#64], .idle, 32#6) := by decide

/-- P4 move 7: a reset with a result untaken, all other pins driven (60_exceptions.md R197). -/
theorem test_step_reset_wins :
    (nextOf (step (live .done 32#6 0#32 true [{ takeEdge with rst := true, cmdValid := true }]))).map
      (fun t => (t.phase, t.keyValid, t.taken)) = some (.idle, false, []) := by decide

/-- The launch state is the reset step taken from power-up (10_state.md R44, 70_reset_and_hazards.md R220). -/
theorem test_reset_is_the_reset_step : State.powerUp.tick.resetStep = State.reset := rfl

/-! Witnesses: for each statement with hypotheses, a concrete state and operands that meet all of them together; where a
statement has several clauses, one for each. -/

/-- The edge that offers `SETKEY 1, 2, 3, 4` (P3 move 2). -/
def setkeyOffer : Edge := offerEdge 0x100000004000000030000000200000001#130

/-- The edge that offers the known `ENCRYPT` (P1 move 3). -/
def encryptOffer : Edge := offerEdge 0x200000000000000008964623812300325#130

/-- The edge that offers the known `DECRYPT` (P1 move 5). -/
def decryptOffer : Edge := offerEdge 0x300000000000000004F7EA0CE0920FDA2#130

/-- The edge that offers the reserved code. -/
def reservedOffer : Edge := offerEdge 0x000000000000000000000000000000000#130

theorem witness_DecodeAndEncodeAgree :
    Instr.wellFormed (.encrypt 0xFFFFFFFF#32 0#32) = true ∧
    (0x1FFFFFFFFFFFFFFFFFFFFFFFFFFFFFFFF#130 : CommandWord).extractLsb' 128 2 = 1#2 ∧
    (0x2FFFFFFFFFFFFFFFFFFFFFFFFFFFFFFFF#130 : CommandWord).extractLsb' 128 2 = 2#2 ∧
    (0x300000000000000000000000000000000#130 : CommandWord).extractLsb' 128 2 = 3#2 ∧
    (0x0FFFFFFFFFFFFFFFFFFFFFFFFFFFFFFFF#130 : CommandWord).extractLsb' 128 2 = 0#2 := by decide

theorem witness_IgnoredFieldHasNoEffect : encryptOffer.cmdOp = 2#2 ∧ decryptOffer.cmdOp = 3#2 := by decide

theorem witness_TableWordsAreReadBack : (0x3FFFFFFFFFFFFFFFFFFFFFFFFFFFFFFFF < 2 ^ 136 ∧ ¬ 2 ^ 130 ≤ 0x3FFFFFFFFFFFFFFFFFFFFFFFFFFFFFFFF) ∧
    (0x400000000000000000000000000000000 < 2 ^ 136 ∧ 2 ^ 130 ≤ 0x400000000000000000000000000000000) := by decide

theorem witness_BytesOnThePorts :
    (∀ (j : Nat) (h : j < 16), (0#128).extractLsb' (8 * j) 8 = (Vector.replicate 16 0#8 : Vector Byte 16)[j]) ∧
    (∀ (j : Nat) (h : j < 8), (0#128).extractLsb' (8 * j) 8 = (Vector.replicate 8 0#8 : Vector Byte 8)[j]) :=
  ⟨fun _ _ => by simp, fun _ _ => by simp⟩

theorem witness_SumValuesAreDistinctAndCycleTheKey : 32 ≤ 32 ∧ 0 ≤ 32 ∧ sumAt 32 = sumAt 32 ∧ sumAt 0 = sumAt 0 := by decide

theorem witness_StepRunsTheOfferedCommand :
    (live .idle 0#6 0#32 false [setkeyOffer]).inputs = setkeyOffer :: [] ∧ setkeyOffer.rst = false ∧ setkeyOffer.cmdValid = true ∧
    (live .idle 0#6 0#32 false [setkeyOffer]).resetSeen = true ∧ (live .idle 0#6 0#32 false [setkeyOffer]).phase = .idle ∧
    decode (setkeyOffer.cmdOp ++ setkeyOffer.cmdData) = .setkey 1#32 2#32 3#32 4#32 := by decide

theorem witness_StepRunsThePlacedWord :
    decodeTableWord 130 0x300000000000000004F7EA0CE0920FDA2 = some (.decrypt 0x0920FDA2#32 0x4F7EA0CE#32) := by decide

theorem witness_SetkeyLoadsTheKey :
    (State.reset.resetSeen = true ∧ State.reset.phase = .idle) ∧
    ((live .enc 31#6 0#32 true []).resetSeen = true ∧ (live .enc 31#6 0#32 true []).phase ≠ .idle) := by decide

theorem witness_EncryptIssues :
    (live .idle 63#6 0#32 true []).resetSeen = true ∧ (live .idle 63#6 0#32 true []).phase = .idle ∧
    (live .idle 63#6 0#32 true []).keyValid = true := by decide

theorem witness_DecryptIssues :
    (live .idle 32#6 0#32 true []).resetSeen = true ∧ (live .idle 32#6 0#32 true []).phase = .idle ∧
    (live .idle 32#6 0#32 true []).keyValid = true := by decide

theorem witness_OperationWithoutKeyIsRefused :
    (live .idle 0#6 0#32 false [decryptOffer]).resetSeen = true ∧ (live .idle 0#6 0#32 false [decryptOffer]).phase = .idle ∧
    (live .idle 0#6 0#32 false [decryptOffer]).keyValid = false ∧ (live .idle 0#6 0#32 false [decryptOffer]).pins.rst = false ∧
    (live .idle 0#6 0#32 false [decryptOffer]).pins.cmdValid = true ∧ (live .idle 0#6 0#32 false [decryptOffer]).pins.cmdOp = 3#2 ∧
    (live .idle 0#6 0#32 false [encryptOffer]).pins.cmdOp = 2#2 := by decide

theorem witness_ReservedOpcodeIsRefused :
    (live .idle 0#6 0#32 true [reservedOffer]).resetSeen = true ∧ (live .idle 0#6 0#32 true [reservedOffer]).phase = .idle ∧
    (live .idle 0#6 0#32 true [reservedOffer]).pins.rst = false ∧ (live .idle 0#6 0#32 true [reservedOffer]).pins.cmdValid = true ∧
    (live .idle 0#6 0#32 true [reservedOffer]).pins.cmdOp = 0#2 := by decide

theorem witness_BusyCommandIsHeldOff :
    Instr.wellFormed (.setkey 0#32 0#32 0#32 0#32) = true ∧ (live .done 32#6 0#32 true []).resetSeen = true ∧
    (live .done 32#6 0#32 true []).phase ≠ .idle := by decide

theorem witness_CommandFrames :
    exec (.setkey 1#32 2#32 3#32 4#32) (live .idle 0#6 0#32 false []) =
      .next { live .idle 0#6 0#32 true [] with k := { k0 := 1#32, k1 := 2#32, k2 := 3#32, k3 := 4#32 } } ∧
    exec (.encrypt 1#32 2#32) (live .idle 9#6 9#32 true []) =
      .next { live .enc 0#6 0#32 true [] with v := { v0 := 1#32, v1 := 2#32 } } ∧
    exec (.decrypt 1#32 2#32) (live .idle 9#6 9#32 true []) =
      .next { live .dec 0#6 0xC6EF3720#32 true [] with v := { v0 := 1#32, v1 := 2#32 } } := ⟨rfl, rfl, rfl⟩

/-- The rows of R40 in order: three issues, two rounds at the last round, a take, two refusals; then the edges at which no
row is enabled. -/
theorem witness_StepRelationTable :
    (live .idle 0#6 0#32 false [setkeyOffer]).pins.cmdOp = 1#2 ∧ (live .idle 0#6 0#32 false [setkeyOffer]).pins.cmdValid = true ∧
    (live .idle 0#6 0#32 false [setkeyOffer]).pins.rst = false ∧ (live .idle 0#6 0#32 true [encryptOffer]).pins.cmdOp = 2#2 ∧
    (live .idle 0#6 0#32 true [encryptOffer]).keyValid = true ∧ (live .idle 0#6 0#32 true [decryptOffer]).pins.cmdOp = 3#2 ∧
    (live .enc 31#6 0#32 true [roundEdge]).pins.roundDue = true ∧ (live .dec 31#6 0#32 true [roundEdge]).pins.roundDue = true ∧
    (live .done 32#6 0#32 true [takeEdge]).pins.resReady = true ∧ (live .idle 0#6 0#32 true [reservedOffer]).pins.cmdOp = 0#2 ∧
    (live .idle 0#6 0#32 false [encryptOffer]).keyValid = false ∧ (live .idle 0#6 0#32 false [takeEdge]).pins.cmdValid = false ∧
    (live .dec 31#6 0#32 true [quietEdge]).pins.roundDue = false ∧ (live .done 32#6 0#32 true [encryptOffer]).pins.resReady = false := by decide

theorem witness_CommandPortHandshake :
    ((live .idle 0#6 0#32 true []).resetSeen = true ∧ encryptOffer.rst = false ∧ encryptOffer.cmdValid = true ∧
      (live .idle 0#6 0#32 true []).outputs.cmdReady = true) ∧
    (roundEdge.cmdValid = false ∧ (live .done 32#6 0#32 true []).outputs.cmdReady = false) := by decide

theorem witness_RoundStepFrame :
    ((live .enc 0#6 0#32 true [quietEdge]).phase = .enc ∧ (live .enc 0#6 0#32 true [quietEdge]).pins.roundDue = false ∧
      (live .enc 0#6 0#32 true [quietEdge]).pins.rst = false ∧ (live .enc 0#6 0#32 true [quietEdge]).resetSeen = true) ∧
    ((live .dec 31#6 0#32 true [roundEdge]).phase = .dec ∧ (live .dec 31#6 0#32 true [roundEdge]).pins.roundDue = true) ∧
    ((live .enc 30#6 0#32 true [roundEdge]).rnd ≠ 31#6 ∧ (live .enc 30#6 0#32 true [roundEdge]).pins.roundDue = true) := by decide

theorem witness_TakeDeliversTheResult :
    (live .done 32#6 0#32 true [takeEdge]).resetSeen = true ∧ (live .done 32#6 0#32 true [takeEdge]).phase = .done ∧
    (live .done 32#6 0#32 true [takeEdge]).pins.rst = false ∧ (live .done 32#6 0#32 true [takeEdge]).pins.resReady = true ∧
    (live .done 32#6 0#32 true []).pins.resReady = false := by decide

theorem witness_UntakenResultBlocksTheCore :
    (live .done 32#6 0#32 true [setkeyOffer, roundEdge]).resetSeen = true ∧ (live .done 32#6 0#32 true [setkeyOffer, roundEdge]).phase = .done ∧
    (live .done 32#6 0#32 true [setkeyOffer, roundEdge]).inputs = [setkeyOffer, roundEdge] ++ [] ∧
    (∀ e ∈ [setkeyOffer, roundEdge], e.rst = false ∧ e.resReady = false) := by decide

theorem witness_StatusOutputsFollowTheState : State.reset.resetSeen = true := by decide

theorem witness_EveryStepUsesOneEdge :
    step (live .done 32#6 0#32 true [takeEdge, roundEdge]) =
      .next { live .idle 32#6 0#32 true [roundEdge] with taken := [0x8964623812300325#64], edge := 2 } := rfl

theorem witness_ResetWins : resetEdge.rst = true ∧ { encryptOffer with rst := true }.rst = true := by decide

theorem witness_ResetAbandonsTheOperation :
    (live .enc 31#6 0#32 true [resetEdge]).pins.rst = true ∧
    (live .dec 31#6 0x9E3779B9#32 true [takeEdge]).pins.rst = false ∧ (live .dec 31#6 0x9E3779B9#32 true [takeEdge]).phase = .dec ∧
    (live .done 32#6 0#32 true [takeEdge]).pins.rst = false ∧ (live .done 32#6 0#32 true [takeEdge]).phase = .done := by decide

theorem witness_NothingRunsBeforeTheFirstReset :
    State.powerUp.resetSeen = false ∧ State.powerUp.pins.rst = false ∧
    { State.powerUp with inputs := [takeEdge] }.pins.resReady = true ∧ { State.powerUp with inputs := [setkeyOffer] }.pins.cmdValid = true ∧
    { State.powerUp with inputs := [resetEdge] }.pins.rst = true := by decide

theorem witness_StepKeepsTheRoundInvariant :
    (live .enc 31#6 (sumAt 31) true [roundEdge]).Inv ∧
    step (live .enc 31#6 (sumAt 31) true [roundEdge]) =
      .next (live .enc 31#6 (sumAt 31) true [roundEdge]).tick.encRoundStep ∧
    (live .dec 31#6 (sumAt 1) true [roundEdge]).Inv ∧
    step (live .dec 31#6 (sumAt 1) true [roundEdge]) = .next (live .dec 31#6 (sumAt 1) true [roundEdge]).tick.decRoundStep :=
  ⟨fun _ => ⟨by decide, rfl, rfl⟩, rfl, fun _ => ⟨by decide, rfl, rfl⟩, rfl⟩

theorem witness_OnlySetkeyChangesTheKey :
    (live .idle 0#6 0#32 false [setkeyOffer]).resetSeen = true ∧ (live .idle 0#6 0#32 false [setkeyOffer]).pins.rst = false ∧
    step (live .idle 0#6 0#32 false [setkeyOffer]) =
      .next { live .idle 0#6 0#32 true [] with k := { k0 := 1#32, k1 := 2#32, k2 := 3#32, k3 := 4#32 }, edge := 2 } := ⟨rfl, rfl, rfl⟩

/-- After the first reset: an issue with a key, one without, the reserved code, an untaken result. -/
theorem witness_RefusedExactlyInTheRefusedSituations :
    EdgeIsDescribed (live .idle 0#6 0#32 true [encryptOffer]) encryptOffer ∧
    ¬ EdgeIsDescribed (live .idle 0#6 0#32 false [encryptOffer]) encryptOffer ∧
    ¬ EdgeIsDescribed (live .idle 0#6 0#32 true [reservedOffer]) reservedOffer ∧
    EdgeIsDescribed (live .done 32#6 0#32 true [reservedOffer]) reservedOffer := by
  refine ⟨.inr (.inl ⟨rfl, fun _ _ => ⟨by decide, fun _ => rfl⟩⟩), ?_, ?_, .inr (.inl ⟨rfl, fun h => nomatch h⟩)⟩
  · rintro (h | ⟨_, h⟩ | ⟨h, _⟩)
    · exact absurd h (by decide)
    · exact absurd ((h rfl rfl).2 (.inl rfl)) (by decide)
    · exact absurd h (by decide)
  · rintro (h | ⟨_, h⟩ | ⟨h, _⟩)
    · exact absurd h (by decide)
    · exact (h rfl rfl).1 rfl
    · exact absurd h (by decide)

/-- Before the first reset: a quiet edge, a reset, an offered command, a raised `res_ready`. -/
theorem witness_RefusedExactlyInTheRefusedSituations_before_reset :
    EdgeIsDescribed State.powerUp quietEdge ∧ EdgeIsDescribed State.powerUp resetEdge ∧
    ¬ EdgeIsDescribed State.powerUp setkeyOffer ∧ ¬ EdgeIsDescribed State.powerUp takeEdge := by
  refine ⟨.inr (.inr ⟨rfl, rfl, rfl⟩), .inl rfl, ?_, ?_⟩
  · rintro (h | ⟨h, _⟩ | ⟨_, h, _⟩) <;> exact absurd h (by decide)
  · rintro (h | ⟨h, _⟩ | ⟨_, _, h⟩) <;> exact absurd h (by decide)

/-- Thirty-one rounds with a pause before the last, commands offered meanwhile and held off. -/
theorem witness_EncryptRunComputesEnc :
    let es := List.replicate 30 roundEdge ++ [quietEdge, { setkeyOffer with resReady := true, roundDue := true }]
    (∀ x ∈ es, x.rst = false) ∧ (es.filter (·.roundDue)).length = 31 ∧ encryptOffer.rst = false ∧ encryptOffer.cmdValid = true ∧
    decode (commandOf encryptOffer) = .encrypt 0x12300325#32 0x89646238#32 ∧ roundEdge.rst = false ∧ roundEdge.roundDue = true ∧
    takeEdge.rst = false ∧ takeEdge.resReady = true ∧
    (live .idle 0#6 0#32 true (encryptOffer :: (es ++ roundEdge :: takeEdge :: []))).inputs = encryptOffer :: (es ++ roundEdge :: takeEdge :: []) ∧
    (live .idle 0#6 0#32 true (encryptOffer :: (es ++ roundEdge :: takeEdge :: []))).phase = .idle ∧
    (live .idle 0#6 0#32 true (encryptOffer :: (es ++ roundEdge :: takeEdge :: []))).keyValid = true := by decide

theorem witness_DecryptRunComputesDec :
    let es := List.replicate 31 roundEdge
    (∀ x ∈ es, x.rst = false) ∧ (es.filter (·.roundDue)).length = 31 ∧ decryptOffer.rst = false ∧ decryptOffer.cmdValid = true ∧
    decode (commandOf decryptOffer) = .decrypt 0x0920FDA2#32 0x4F7EA0CE#32 ∧ roundEdge.rst = false ∧ roundEdge.roundDue = true ∧
    takeEdge.rst = false ∧ takeEdge.resReady = true ∧
    (live .idle 0#6 0#32 true (decryptOffer :: (es ++ roundEdge :: takeEdge :: []))).phase = .idle ∧
    (live .idle 0#6 0#32 true (decryptOffer :: (es ++ roundEdge :: takeEdge :: []))).keyValid = true := by decide

/-- The first operation's rounds need 33 edges, one of them a pause; the second operation's are one edge each. -/
theorem witness_DecryptUndoesEncrypt :
    State.reset.resetSeen = true ∧ State.reset.phase = .idle ∧
    OffersCommand (offerEdge 0x1ABCDEFABEFABCDEFCDEFABCDABCDEFAB#130) (.setkey 0xABCDEFAB#32 0xCDEFABCD#32 0xEFABCDEF#32 0xABCDEFAB#32) ∧
    OffersCommand encryptOffer (.encrypt 0x12300325#32 0x89646238#32) ∧
    OffersCommand decryptOffer (.decrypt 0x0920FDA2#32 0x4F7EA0CE#32) ∧
    RoundsComplete (quietEdge :: List.replicate 31 roundEdge ++ [roundEdge]) ∧
    RoundsComplete (List.replicate 31 roundEdge ++ [{ takeEdge with roundDue := true }]) ∧ AcceptsResult takeEdge := by
  refine ⟨rfl, rfl, by unfold OffersCommand; decide, by unfold OffersCommand; decide, by unfold OffersCommand; decide,
    ⟨by decide, _, _, rfl, by decide, by decide⟩, ⟨by decide, _, _, rfl, by decide, by decide⟩, rfl, rfl⟩

/-- An idle edge between the commands, a pause in the rounds, and an edge at which the finished result waits. -/
theorem witness_PseudoCommandsReturnTheResult :
    State.reset.resetSeen = true ∧ State.reset.phase = .idle ∧ (∀ x ∈ [quietEdge], x.rst = false ∧ x.cmdValid = false) ∧
    RoundsComplete (quietEdge :: List.replicate 31 roundEdge ++ [roundEdge]) ∧
    (∀ x ∈ [encryptOffer], x.rst = false ∧ x.resReady = false) :=
  ⟨rfl, rfl, by decide, ⟨by decide, _, _, rfl, by decide, by decide⟩, by decide⟩

theorem witness_RunningOperationReachesDone :
    (live .dec 30#6 (sumAt 2) true [roundEdge, quietEdge, roundEdge]).Inv ∧
    (live .dec 30#6 (sumAt 2) true [roundEdge, quietEdge, roundEdge]).phase = .dec ∧
    (live .dec 30#6 (sumAt 2) true [roundEdge, quietEdge, roundEdge]).inputs = [roundEdge, quietEdge] ++ roundEdge :: [] ∧
    (∀ x ∈ [roundEdge, quietEdge], x.rst = false) ∧ roundEdge.rst = false ∧ roundEdge.roundDue = true ∧
    ([roundEdge, quietEdge].filter (·.roundDue)).length + (live .dec 30#6 (sumAt 2) true [roundEdge, quietEdge, roundEdge]).rnd.toNat = 31 :=
  ⟨fun _ => ⟨by decide, rfl, rfl⟩, rfl, rfl, by decide, rfl, rfl, rfl⟩

theorem witness_UnspecifiedContentsNeverMatter :
    (live .idle 5#6 1#32 false [setkeyOffer, encryptOffer]).SameButUnspecified
      { live .idle 9#6 2#32 false [setkeyOffer, encryptOffer] with
        k := { k0 := 0#32, k1 := 0#32, k2 := 0#32, k3 := 0#32 }, v := { v0 := 0#32, v1 := 0#32 }, edge := 7 } ∧
    2 ≤ (live .idle 5#6 1#32 false [setkeyOffer, encryptOffer]).inputs.length ∧
    (nextOf (Sys2Proof.core.run 2 (live .idle 5#6 1#32 false [setkeyOffer, encryptOffer]))).map (·.phase) = some .enc ∧
    refusalOf (Sys2Proof.core.run 1 (live .idle 5#6 1#32 false [encryptOffer])) = some .keyNotLoaded := by
  refine ⟨⟨rfl, rfl, rfl, fun _ => ⟨rfl, rfl, (fun h => absurd h (by decide)), fun h => absurd rfl h⟩⟩, by decide, by decide, by decide⟩

theorem witness_ControlIgnoresKeyAndBlock :
    (live .idle 0#6 0#32 true [encryptOffer, roundEdge]).SameControl
      { live .idle 5#6 1#32 true [offerEdge 0x200000000000000000000000000000000#130, roundEdge] with
        k := { k0 := 0#32, k1 := 0#32, k2 := 0#32, k3 := 0#32 }, edge := 7 } ∧
    List.Forall₂ SameButOperand [encryptOffer, roundEdge] [offerEdge 0x200000000000000000000000000000000#130, roundEdge] ∧
    (nextOf (Sys2Proof.core.run 2 (live .idle 0#6 0#32 true [encryptOffer, roundEdge]))).map (·.rnd) = some 1#6 ∧
    refusalOf (Sys2Proof.core.run 1 (live .idle 0#6 0#32 true [reservedOffer])) = some .reservedOpcode := by
  refine ⟨⟨rfl, rfl, fun _ => ⟨rfl, rfl, fun h => absurd rfl h⟩⟩,
    .cons ⟨rfl, ?_, ?_, rfl, rfl⟩ (.cons ⟨rfl, rfl, rfl, rfl, rfl⟩ .nil), by decide, by decide⟩ <;> decide

theorem witness_FinishedRunKeepsItsOutcome :
    ((live .idle 32#6 0#32 true [takeEdge, roundEdge]).resetSeen = true ∧ (live .idle 32#6 0#32 true [takeEdge, roundEdge]).phase = .idle ∧
      (live .idle 32#6 0#32 true [takeEdge, roundEdge]).inputs = [takeEdge, roundEdge] ++ [] ∧
      ∀ e ∈ [takeEdge, roundEdge], e.rst = false ∧ e.cmdValid = false) ∧
    State.reset.resetSeen = true ∧ State.reset.RunOver := ⟨⟨rfl, rfl, rfl, by decide⟩, rfl, rfl, rfl⟩

/-- A pause and a busy command in the list, which ends long before the operation does. -/
theorem witness_RunningOperationAlwaysReachesDone :
    (live .enc 3#6 (sumAt 3) true [quietEdge, encryptOffer, roundEdge]).Inv ∧
    (live .enc 3#6 (sumAt 3) true [quietEdge, encryptOffer, roundEdge]).resetSeen = true ∧
    (live .enc 3#6 (sumAt 3) true [quietEdge, encryptOffer, roundEdge]).phase = .enc ∧
    (∀ x ∈ (live .enc 3#6 (sumAt 3) true [quietEdge, encryptOffer, roundEdge]).inputs, x.rst = false) ∧ State.reset.inputs = [] :=
  ⟨fun _ => ⟨by decide, rfl, rfl⟩, rfl, rfl, by decide, rfl⟩

theorem witness_InstancesAreIndependent :
    platformRun [live .enc 0#6 0#32 true [roundEdge], live .done 32#6 0#32 true []] [1, 0] =
      .next [(live .enc 0#6 0#32 true [roundEdge]).tick.encRoundStep, (live .done 32#6 0#32 true []).tick] := rfl

end Sys2Proof.Machine
end

section
/-!
SUPPORT. What the decoder makes of the pins of an edge, and which of its answers come from which opcode (30_encoding.md
R70 to R78).
-/

namespace Sys2Proof.Machine

theorem decode_commandOf_setkey {e : Edge} (h : e.cmdOp = 1#2) :
    decode (commandOf e) =
      .setkey (keyOfVector e.cmdData).k0 (keyOfVector e.cmdData).k1 (keyOfVector e.cmdData).k2
        (keyOfVector e.cmdData).k3 := by
  simp [decode, opOf_commandOf, h, wordOf_commandOf, keyOfVector]

/-- The block an operation is offered with: the low half of `cmd_data` (R74). -/
theorem decode_commandOf_encrypt {e : Edge} (h : e.cmdOp = 2#2) :
    decode (commandOf e) =
      .encrypt (blockOfVector (e.cmdData.extractLsb' 0 64)).v0 (blockOfVector (e.cmdData.extractLsb' 0 64)).v1 := by
  simp [decode, opOf_commandOf, h, wordOf_commandOf, blockOfVector, BitVec.extractLsb'_extractLsb'_of_le]

theorem decode_commandOf_decrypt {e : Edge} (h : e.cmdOp = 3#2) :
    decode (commandOf e) =
      .decrypt (blockOfVector (e.cmdData.extractLsb' 0 64)).v0 (blockOfVector (e.cmdData.extractLsb' 0 64)).v1 := by
  simp [decode, opOf_commandOf, h, wordOf_commandOf, blockOfVector, BitVec.extractLsb'_extractLsb'_of_le]

theorem decode_commandOf_reserved {e : Edge} (h : e.cmdOp = 0#2) : decode (commandOf e) = .reserved00 := by
  simp [decode, opOf_commandOf, h]

/-- Only opcode `0b01` decodes to a `SETKEY`. -/
theorem opOf_of_decode_setkey {cw : CommandWord} {k0 k1 k2 k3 : Word} (h : decode cw = .setkey k0 k1 k2 k3) :
    opOf cw = 1#2 := by
  by_contra hne
  simp only [decode, if_neg hne] at h
  split_ifs at h

/-- A `SETKEY` read from the pins carries the key on `cmd_data` (R73). -/
theorem keyOfVector_of_decode_setkey {e : Edge} {k0 k1 k2 k3 : Word}
    (h : decode (commandOf e) = .setkey k0 k1 k2 k3) :
    e.cmdOp = 1#2 ∧ keyOfVector e.cmdData = { k0 := k0, k1 := k1, k2 := k2, k3 := k3 } := by
  have hop : e.cmdOp = 1#2 := opOf_commandOf e ▸ opOf_of_decode_setkey h
  rw [decode_commandOf_setkey hop, Instr.setkey.injEq] at h
  obtain ⟨rfl, rfl, rfl, rfl⟩ := h
  exact ⟨hop, rfl⟩

/-- A number read as an instruction is the command word with the same bits (R70). -/
theorem decode_of_decodeTableWord {nbits w : Nat} {i : Instr} (h : decodeTableWord nbits w = some i) :
    decode (BitVec.ofNat 130 (w % 2 ^ nbits)) = i := by
  unfold decodeTableWord decodeNumber at h
  split_ifs at h
  exact Option.some.inj h

/-- Word 0 of a block vector is `V[0]` (20_memory.md R52). -/
theorem blockVector_low (b : Block) : (blockVector b).extractLsb' 0 32 = b.v0 := BitVec.extractLsb'_append_eq_right

/-- Word 1 of a block vector is `V[1]` (20_memory.md R52). -/
theorem blockVector_high (b : Block) : (blockVector b).extractLsb' 32 32 = b.v1 := BitVec.extractLsb'_append_eq_left

end Sys2Proof.Machine
end

section
/-!
SUPPORT. The rows of the step relation (10_state.md R40) that are not in `Laws`, and what a step depends on.
-/

namespace Sys2Proof.Machine

/-! The outputs after the first reset -/

theorem outputs_cmdReady_iff {s : State} (hs : s.resetSeen = true) : s.outputs.cmdReady = true ↔ s.phase = .idle := by
  simp [outputs_live hs, State.cmdReady]

theorem outputs_resValid_iff {s : State} (hs : s.resetSeen = true) : s.outputs.resValid = true ↔ s.phase = .done := by
  simp [outputs_live hs, State.resValid]

theorem outputs_keyValid {s : State} (hs : s.resetSeen = true) : s.outputs.keyValid = s.keyValid := by
  simp [outputs_live hs]

/-- While `PHASE = DONE` the result port offers `V[1] ++ V[0]` (10_state.md R43). -/
theorem outputs_resData_done {s : State} (hs : s.resetSeen = true) (hp : s.phase = .done) :
    s.outputs.resData = blockVector s.v := by
  simp [outputs_live hs, State.resData, State.resValid, hp]

/-! One edge without a reset, after the first reset -/

/-- The encrypt round step (42_encrypt.md R154). -/
theorem step_encRound {s : State} (hs : s.resetSeen = true) (hr : s.pins.rst = false) (hp : s.phase = .enc)
    (hd : s.pins.roundDue = true) : step s = .next s.tick.encRoundStep := by
  simp [step, edgeEvent_live hs hr, hp, hd]

/-- The decrypt round step (43_decrypt.md R174). -/
theorem step_decRound {s : State} (hs : s.resetSeen = true) (hr : s.pins.rst = false) (hp : s.phase = .dec)
    (hd : s.pins.roundDue = true) : step s = .next s.tick.decRoundStep := by
  simp [step, edgeEvent_live hs hr, hp, hd]

/-- A running round that is not complete keeps all state (70_reset_and_hazards.md R239). -/
theorem step_round_pending {s : State} (hs : s.resetSeen = true) (hr : s.pins.rst = false)
    (hp : s.phase = .enc ∨ s.phase = .dec) (hd : s.pins.roundDue = false) : step s = .next s.tick := by
  rcases hp with hp | hp <;> simp [step, edgeEvent_live hs hr, hp, hd]

/-- A result the host does not accept stays offered (10_state.md R43). -/
theorem step_done_untaken {s : State} (hs : s.resetSeen = true) (hr : s.pins.rst = false) (hp : s.phase = .done)
    (hy : s.pins.resReady = false) : step s = .next s.tick := by
  simp [step, edgeEvent_live hs hr, hp, hy]

/-! encRoundStep -/

@[simp] theorem encRoundStep_k (s : State) : s.encRoundStep.k = s.k := rfl
@[simp] theorem encRoundStep_sum (s : State) : s.encRoundStep.sum = add32 s.sum delta := rfl
@[simp] theorem encRoundStep_rnd (s : State) : s.encRoundStep.rnd = s.rnd + 1#6 := rfl
@[simp] theorem encRoundStep_phase (s : State) :
    s.encRoundStep.phase = if s.rnd + 1#6 = 32#6 then .done else s.phase := rfl
@[simp] theorem encRoundStep_keyValid (s : State) : s.encRoundStep.keyValid = s.keyValid := rfl
@[simp] theorem encRoundStep_inputs (s : State) : s.encRoundStep.inputs = s.inputs := rfl
@[simp] theorem encRoundStep_edge (s : State) : s.encRoundStep.edge = s.edge := rfl
@[simp] theorem encRoundStep_taken (s : State) : s.encRoundStep.taken = s.taken := rfl
@[simp] theorem encRoundStep_resetSeen (s : State) : s.encRoundStep.resetSeen = s.resetSeen := rfl
@[simp] theorem encRoundStep_work (s : State) : s.encRoundStep.work = encRound s.k s.work := rfl

/-! decRoundStep -/

@[simp] theorem decRoundStep_k (s : State) : s.decRoundStep.k = s.k := rfl
@[simp] theorem decRoundStep_sum (s : State) : s.decRoundStep.sum = sub32 s.sum delta := rfl
@[simp] theorem decRoundStep_rnd (s : State) : s.decRoundStep.rnd = s.rnd + 1#6 := rfl
@[simp] theorem decRoundStep_phase (s : State) :
    s.decRoundStep.phase = if s.rnd + 1#6 = 32#6 then .done else s.phase := rfl
@[simp] theorem decRoundStep_keyValid (s : State) : s.decRoundStep.keyValid = s.keyValid := rfl
@[simp] theorem decRoundStep_inputs (s : State) : s.decRoundStep.inputs = s.inputs := rfl
@[simp] theorem decRoundStep_edge (s : State) : s.decRoundStep.edge = s.edge := rfl
@[simp] theorem decRoundStep_taken (s : State) : s.decRoundStep.taken = s.taken := rfl
@[simp] theorem decRoundStep_resetSeen (s : State) : s.decRoundStep.resetSeen = s.resetSeen := rfl
@[simp] theorem decRoundStep_work (s : State) : s.decRoundStep.work = decRound s.k s.work := rfl

/-! The whole effect of a round step -/

/-- The whole effect of an encrypt round step in `ENC`. -/
theorem encRoundStep_eq {s : State} (hp : s.phase = .enc) :
    s.encRoundStep =
      { s with v := { v0 := (encRound s.k s.work).v0, v1 := (encRound s.k s.work).v1 },
               sum := (encRound s.k s.work).sum, rnd := s.rnd + 1#6,
               phase := if s.rnd + 1#6 = 32#6 then .done else .enc } := by
  simp only [State.encRoundStep, State.countRound, State.setWork, hp]

/-- The whole effect of a decrypt round step in `DEC`. -/
theorem decRoundStep_eq {s : State} (hp : s.phase = .dec) :
    s.decRoundStep =
      { s with v := { v0 := (decRound s.k s.work).v0, v1 := (decRound s.k s.work).v1 },
               sum := (decRound s.k s.work).sum, rnd := s.rnd + 1#6,
               phase := if s.rnd + 1#6 = 32#6 then .done else .dec } := by
  simp only [State.decRoundStep, State.countRound, State.setWork, hp]

/-! The issue of each command, as the pins give it -/

section Issue

variable {s : State} (hs : s.resetSeen = true) (hr : s.pins.rst = false) (hp : s.phase = .idle)
  (hv : s.pins.cmdValid = true)
include hs hr hp hv

theorem step_setkey (ho : s.pins.cmdOp = 1#2) : step s = .next (s.tick.loadKey (keyOfVector s.pins.cmdData)) := by
  rw [step_issue hr hv hs hp, decode_commandOf_setkey ho, exec_setkey,
    issueWhenReady_issues (s := s.tick) (needsKey := false) hs hp nofun]

theorem step_encrypt (ho : s.pins.cmdOp = 2#2) (hk : s.keyValid = true) :
    step s = .next (s.tick.startOperation .enc (blockOfVector (s.pins.cmdData.extractLsb' 0 64)) sumEncInit) := by
  rw [step_issue hr hv hs hp, decode_commandOf_encrypt ho, exec_encrypt,
    issueWhenReady_issues (s := s.tick) hs hp fun _ => hk]

theorem step_decrypt (ho : s.pins.cmdOp = 3#2) (hk : s.keyValid = true) :
    step s = .next (s.tick.startOperation .dec (blockOfVector (s.pins.cmdData.extractLsb' 0 64)) sumDecInit) := by
  rw [step_issue hr hv hs hp, decode_commandOf_decrypt ho, exec_decrypt,
    issueWhenReady_issues (s := s.tick) hs hp fun _ => hk]

theorem step_reserved (ho : s.pins.cmdOp = 0#2) : step s = .refused .reservedOpcode := by
  rw [step_issue hr hv hs hp, decode_commandOf_reserved ho, exec_reserved00]

theorem step_operation_noKey (ho : s.pins.cmdOp = 2#2 ∨ s.pins.cmdOp = 3#2) (hk : s.keyValid = false) :
    step s = .refused .keyNotLoaded := by
  rw [step_issue hr hv hs hp]
  rcases ho with ho | ho
  · rw [decode_commandOf_encrypt ho, exec_encrypt, issueWhenReady_noKey (s := s.tick) hs hp hk]
  · rw [decode_commandOf_decrypt ho, exec_decrypt, issueWhenReady_noKey (s := s.tick) hs hp hk]

end Issue

/-! What a step depends on -/

/-- A step is decided by the row its edge takes and the state with that edge used up. -/
theorem step_congr {s t : State} (he : edgeEvent s s.pins = edgeEvent t t.pins) (ht : s.tick = t.tick) :
    step s = step t := by
  rw [step, step, he, ht]

/-- Where nothing can issue, an edge takes the row that its other pins decide (10_state.md R42). -/
theorem edgeEvent_without_issue {s : State} {e : Edge} (hs : s.resetSeen = true) (hr : e.rst = false)
    (h : e.cmdValid = false ∨ s.phase ≠ .idle) :
    edgeEvent s e = edgeEvent s { quietEdge with resReady := e.resReady, roundDue := e.roundDue } := by
  rw [edgeEvent_live hs hr, edgeEvent_live hs rfl]
  cases hp : s.phase with
  | idle => simp [h.resolve_right (not_not_intro hp), quietEdge]
  | enc | dec | done => rfl

end Sys2Proof.Machine
end

section
/-!
SUPPORT. The round invariant `State.Inv` (10_state.md R45, R29): what `SUM` and `RND` do in one round, and that every
operation on the state keeps it.
-/

namespace Sys2Proof.Machine

/-! One round of the schedule and of the count -/

/-- An encrypt starts at the low end of the schedule, `S[0]` (10_state.md R29). -/
theorem sumEncInit_eq : sumEncInit = sumAt 0 := by decide

/-- A decrypt starts at the high end of the schedule, `S[32]` (10_state.md R29). -/
theorem sumDecInit_eq : sumDecInit = sumAt 32 := by decide

/-- One encrypt round takes `SUM` one value up the schedule (40_key_schedule.md R107). -/
theorem add32_sumAt_delta (i : Nat) : add32 (sumAt i) delta = sumAt (i + 1) := (ofNat_succ_mul_toNat delta i).symm

/-- One decrypt round takes `SUM` one value down the schedule (R107). -/
theorem sub32_sumAt_succ_delta (i : Nat) : sub32 (sumAt (i + 1)) delta = sumAt i := by
  rw [← add32_sumAt_delta, sub32, add32, BitVec.add_sub_cancel]

/-- The count makes 32 exactly at the end of the last round. -/
theorem succ_rnd_eq_32_iff (rnd : BitVec 6) : rnd + 1#6 = 32#6 ↔ rnd.toNat = 31 := by
  bv_omega

/-- Below 32 the count does not wrap. -/
theorem succ_rnd_toNat {rnd : BitVec 6} (h : rnd.toNat < 32) : (rnd + 1#6).toNat = rnd.toNat + 1 := by
  bv_omega

/-! The invariant in each phase -/

theorem inv_before_reset {s : State} (h : s.resetSeen = false) : s.Inv := fun h' => absurd (h.symm.trans h') nofun

theorem inv_idle {s : State} (hp : s.phase = .idle) : s.Inv := fun _ => by simp only [hp]

theorem inv_enc_iff {s : State} (hs : s.resetSeen = true) (hp : s.phase = .enc) :
    s.Inv ↔ s.rnd.toNat < 32 ∧ s.keyValid = true ∧ s.sum = sumAt s.rnd.toNat := by
  simp only [State.Inv, hs, hp, forall_const]

theorem inv_dec_iff {s : State} (hs : s.resetSeen = true) (hp : s.phase = .dec) :
    s.Inv ↔ s.rnd.toNat < 32 ∧ s.keyValid = true ∧ s.sum = sumAt (32 - s.rnd.toNat) := by
  simp only [State.Inv, hs, hp, forall_const]

theorem inv_done_iff {s : State} (hs : s.resetSeen = true) (hp : s.phase = .done) :
    s.Inv ↔ s.rnd = 32#6 ∧ s.keyValid = true ∧ (s.sum = sumAt 32 ∨ s.sum = sumAt 0) := by
  simp only [State.Inv, hs, hp, forall_const]

/-- The passing of an edge touches nothing the invariant speaks of. -/
@[simp] theorem inv_tick {s : State} : s.tick.Inv ↔ s.Inv := Iff.rfl

/-! What keeps it -/

/-- The issue of an operation, with the `SUM` its direction starts at. -/
theorem inv_startOperation_enc {s : State} (b : Block) (hs : s.resetSeen = true) (hk : s.keyValid = true) :
    (s.startOperation .enc b sumEncInit).Inv :=
  (inv_enc_iff (s := s.startOperation .enc b sumEncInit) hs rfl).mpr ⟨by simp, hk, sumEncInit_eq⟩

theorem inv_startOperation_dec {s : State} (b : Block) (hs : s.resetSeen = true) (hk : s.keyValid = true) :
    (s.startOperation .dec b sumDecInit).Inv :=
  (inv_dec_iff (s := s.startOperation .dec b sumDecInit) hs rfl).mpr ⟨by simp, hk, sumDecInit_eq⟩

/-- An encrypt round goes on in `ENC` one value further, or was the last and ends in `DONE` at `S[32]`. -/
theorem inv_encRoundStep {s : State} (hs : s.resetSeen = true) (hp : s.phase = .enc) (h : s.Inv) :
    s.encRoundStep.Inv := by
  obtain ⟨hlt, hk, hsum⟩ := (inv_enc_iff hs hp).mp h
  have hnext : s.encRoundStep.sum = sumAt (s.rnd.toNat + 1) := by rw [encRoundStep_sum, hsum, add32_sumAt_delta]
  by_cases hlast : s.rnd.toNat = 31
  · have hrnd : s.rnd + 1#6 = 32#6 := (succ_rnd_eq_32_iff s.rnd).mpr hlast
    rw [hlast] at hnext
    exact (inv_done_iff (s := s.encRoundStep) hs (if_pos hrnd)).mpr ⟨hrnd, hk, .inl hnext⟩
  · have hphase : s.encRoundStep.phase = .enc := by simp [succ_rnd_eq_32_iff, hlast, hp]
    rw [inv_enc_iff (s := s.encRoundStep) hs hphase, encRoundStep_rnd, succ_rnd_toNat hlt]
    exact ⟨by omega, hk, hnext⟩

/-- A decrypt round goes on in `DEC` one value further down, or was the last and ends in `DONE` at `S[0]`. -/
theorem inv_decRoundStep {s : State} (hs : s.resetSeen = true) (hp : s.phase = .dec) (h : s.Inv) :
    s.decRoundStep.Inv := by
  obtain ⟨hlt, hk, hsum⟩ := (inv_dec_iff hs hp).mp h
  have hindex : 32 - s.rnd.toNat = 32 - (s.rnd.toNat + 1) + 1 := by omega
  have hnext : s.decRoundStep.sum = sumAt (32 - (s.rnd.toNat + 1)) := by
    rw [decRoundStep_sum, hsum, hindex, sub32_sumAt_succ_delta]
  by_cases hlast : s.rnd.toNat = 31
  · have hrnd : s.rnd + 1#6 = 32#6 := (succ_rnd_eq_32_iff s.rnd).mpr hlast
    rw [hlast] at hnext
    exact (inv_done_iff (s := s.decRoundStep) hs (if_pos hrnd)).mpr ⟨hrnd, hk, .inr hnext⟩
  · have hphase : s.decRoundStep.phase = .dec := by simp [succ_rnd_eq_32_iff, hlast, hp]
    rw [inv_dec_iff (s := s.decRoundStep) hs hphase, decRoundStep_rnd, succ_rnd_toNat hlt]
    exact ⟨by omega, hk, hnext⟩

/-- An instruction that answers a next state keeps the invariant: it is held off, loads a key in `IDLE`, or starts an
operation. -/
theorem inv_exec {i : Instr} {s t : State} (h : s.Inv) (he : exec i s = .next t) : t.Inv := by
  obtain ⟨hs, ⟨-, rfl, -⟩ | ⟨hp, _, _, _, _, -, rfl⟩ | ⟨-, hk, _, _, -, rfl⟩ | ⟨-, hk, _, _, -, rfl⟩⟩ :=
    exec_next_cases he
  · exact h
  · exact inv_idle hp
  · exact inv_startOperation_enc _ hs hk
  · exact inv_startOperation_dec _ hs hk

theorem inv_step {s t : State} (h : s.Inv) (hst : step s = .next t) : t.Inv := by
  obtain ⟨-, rfl⟩ | ⟨-, hs, -, -, rfl⟩ | ⟨-, hs, row⟩ := step_next_cases hst
  · exact inv_idle rfl
  · exact inv_before_reset hs
  · obtain ⟨-, -, he⟩ | ⟨hp, -, rfl⟩ | ⟨hp, -, rfl⟩ | ⟨-, -, rfl⟩ | ⟨rfl, -⟩ := row
    · exact inv_exec (inv_tick.mpr h) he
    · exact inv_encRoundStep hs hp (inv_tick.mpr h)
    · exact inv_decRoundStep hs hp (inv_tick.mpr h)
    · exact inv_idle rfl
    · exact inv_tick.mpr h

end Sys2Proof.Machine
end

section
/-!
The obligations on the state and its edges (10_state.md).
-/

namespace Sys2Proof.Machine

/-- Settles O44, by the row of the step relation taken. -/
theorem stepKeepsTheRoundInvariant : Obligations.StepKeepsTheRoundInvariant := fun _ _ => inv_step

/-- Settles O32, one lemma for each row. -/
theorem stepRelationTable : Obligations.StepRelationTable := by
  intro s hs hr
  refine ⟨?_, ?_, ?_, ?_, ?_, ?_, ?_, ?_, ?_, ?_, ?_⟩
  · exact fun hp hv ho => step_setkey hs hr hp hv ho
  · exact fun hp hv ho hk => step_encrypt hs hr hp hv ho hk
  · exact fun hp hv ho hk => step_decrypt hs hr hp hv ho hk
  · intro hp hd
    rw [step_encRound hs hr hp hd, encRoundStep_eq (s := s.tick) hp]
    rfl
  · intro hp hd
    rw [step_decRound hs hr hp hd, decRoundStep_eq (s := s.tick) hp]
    rfl
  · exact fun hp hy => step_takes ⟨hs, hp, hr, hy⟩
  · exact fun hp hv => step_idle_quiet hs hp hr hv
  · exact step_round_pending hs hr
  · exact step_done_untaken hs hr
  · exact step_reserved hs hr
  · exact step_operation_noKey hs hr

/-- Settles O45: of the rows taken without a reset, only the issue of a `SETKEY` writes `K` or `KEYVALID`. -/
theorem onlySetkeyChangesTheKey : Obligations.OnlySetkeyChangesTheKey := by
  intro s t hs hr hst
  obtain ⟨hr', -⟩ | ⟨-, hs', -⟩ | ⟨-, -, row⟩ := step_next_cases hst
  · exact absurd (hr.symm.trans hr') nofun
  · exact absurd (hs.symm.trans hs') nofun
  · obtain ⟨hp, hv, he⟩ | ⟨-, -, rfl⟩ | ⟨-, -, rfl⟩ | ⟨-, -, rfl⟩ | ⟨rfl, -⟩ := row
    · obtain ⟨-, ⟨-, rfl, -⟩ | ⟨-, _, _, _, _, hd, rfl⟩ | ⟨-, -, _, _, -, rfl⟩ | ⟨-, -, _, _, -, rfl⟩⟩ :=
        exec_next_cases he
      · exact .inl ⟨rfl, rfl⟩
      · obtain ⟨ho, hkey⟩ := keyOfVector_of_decode_setkey hd
        exact .inr ⟨hp, hv, ho, hkey.symm, rfl⟩
      · exact .inl ⟨rfl, rfl⟩
      · exact .inl ⟨rfl, rfl⟩
    all_goals exact .inl ⟨rfl, rfl⟩

/-- Settles O23, by the row at which a command issues. -/
theorem stepRunsTheOfferedCommand : Obligations.StepRunsTheOfferedCommand := by
  intro s e es i hin hr hv hs hp hd
  have hpins := State.pins_cons hin
  have htick : s.tick = { s with inputs := es, edge := s.edge + 1 } := by rw [State.tick, hin, List.tail_cons]
  rw [step_issue (hpins ▸ hr) (hpins ▸ hv) hs hp, hpins, commandOf, hd, htick]

/-- Settles O24: the placed word is the command at the next edge. -/
theorem stepRunsThePlacedWord : Obligations.StepRunsThePlacedWord := by
  intro s nbits w i h
  have hissue : (s.withFetchWord nbits w).Issues i :=
    ⟨rfl, rfl, rfl, rfl, (congrArg decode (commandOf_offerEdge _)).trans (decode_of_decodeTableWord h)⟩
  exact step_issues hissue

/-- Settles O30: the issue rule holds every command off; the reserved code does not go through it. -/
theorem busyCommandIsHeldOff : Obligations.BusyCommandIsHeldOff := by
  refine ⟨fun i s hi hs hp => ?_, exec_reserved00⟩
  cases i with
  | setkey | encrypt | decrypt => exact issueWhenReady_busy hs hp
  | reserved00 => cases hi

/-- Settles O33: the issue is the row at which a command runs, and no other row reads the command port. -/
theorem commandPortHandshake : Obligations.CommandPortHandshake := by
  intro s e es hs hr
  refine ⟨fun hv hc => ?_, fun h valid op data h' => ?_, outputs_cmdReady_iff hs⟩
  · exact step_issue (s := { s with inputs := e :: es }) hr hv hs ((outputs_cmdReady_iff hs).mp hc)
  · have hbusy : s.outputs.cmdReady = false → s.phase ≠ .idle := fun hc hp =>
      absurd (hc.symm.trans ((outputs_cmdReady_iff hs).mpr hp)) nofun
    apply step_congr
    · exact (edgeEvent_without_issue (s := { s with inputs := e :: es }) hs hr (h.imp_right hbusy)).trans
        (edgeEvent_without_issue (e := { e with cmdValid := valid, cmdOp := op, cmdData := data }) hs hr
          (h'.imp_right hbusy)).symm
    · rfl

/-- Settles O35, by what the result port shows in `DONE` and the two rows of that phase. -/
theorem takeDeliversTheResult : Obligations.TakeDeliversTheResult := by
  intro s hs hp
  rw [outputs_resData_done hs hp]
  exact ⟨(outputs_resValid_iff hs).mpr hp, blockVector_low s.v, blockVector_high s.v,
    fun hr hy => step_takes ⟨hs, hp, hr, hy⟩, fun hr hy => step_done_untaken hs hr hp hy⟩

/-- Settles O37. -/
theorem statusOutputsFollowTheState : Obligations.StatusOutputsFollowTheState := fun _ hs =>
  ⟨outputs_cmdReady_iff hs, outputs_resValid_iff hs, outputs_keyValid hs⟩

/-- Settles O39: the outputs follow from the phase and the key flag of the launch state. -/
theorem resetStateIsIdleWithoutKey : Obligations.ResetStateIsIdleWithoutKey := by
  have hs : State.reset.resetSeen = true := rfl
  refine ⟨rfl, rfl, hs, (outputs_cmdReady_iff hs).mpr rfl, ?_, outputs_keyValid hs⟩
  exact Bool.eq_false_iff.mpr fun hv => nomatch (outputs_resValid_iff hs).mp hv

/-- Settles O43: the launch state is idle, and at power-up no reset has happened. -/
theorem launchStateMeetsTheRoundInvariant : Obligations.LaunchStateMeetsTheRoundInvariant :=
  ⟨inv_idle rfl, inv_before_reset rfl⟩

/-- Settles O56: after the first reset the outputs are read from `PHASE`, `KEYVALID`, `V` and the edge number, before it
from the edge number alone. -/
theorem noPortShowsTheKey : Obligations.NoPortShowsTheKey := by
  intro s k sum rnd
  by_cases hs : s.resetSeen = true
  · have hs' : ({ s with k := k, sum := sum, rnd := rnd } : State).resetSeen = true := hs
    rw [outputs_live hs, outputs_live hs']
    rfl
  · simp [State.outputs, hs]

end Sys2Proof.Machine
end

section
/-!
SUPPORT. How words and bytes are packed (20_memory.md R52 to R54). A key is four words and a word is four bytes, both
the least significant first, so both rest on the two facts about four parts of one width.
-/

namespace Sys2Proof.Machine

/-! Four parts of one width, side by side -/

section FourParts

variable {n : Nat} (p0 p1 p2 p3 : BitVec n)

theorem append4_part0 : (p3 ++ p2 ++ p1 ++ p0).extractLsb' 0 n = p0 := BitVec.extractLsb'_append_eq_right

theorem append4_part1 : (p3 ++ p2 ++ p1 ++ p0).extractLsb' n n = p1 := by
  rw [BitVec.extractLsb'_append_eq_of_le (Nat.le_refl n), Nat.sub_self, BitVec.extractLsb'_append_eq_right]

theorem append4_part2 : (p3 ++ p2 ++ p1 ++ p0).extractLsb' (n + n) n = p2 := by
  rw [BitVec.extractLsb'_append_eq_of_le (Nat.le_add_left n n), Nat.add_sub_cancel,
    BitVec.extractLsb'_append_eq_of_le (Nat.le_refl n), Nat.sub_self, BitVec.extractLsb'_append_eq_right]

theorem append4_part3 : (p3 ++ p2 ++ p1 ++ p0).extractLsb' (n + n + n) n = p3 := by
  rw [BitVec.extractLsb'_append_eq_of_le (Nat.le_add_left n (n + n)), Nat.add_sub_cancel,
    BitVec.extractLsb'_append_eq_of_le (Nat.le_add_left n n), Nat.add_sub_cancel, BitVec.extractLsb'_append_eq_left]

end FourParts

/-- Four neighbouring slices, put side by side again, are one slice. -/
theorem append4_extractLsb' {w : Nat} (x : BitVec w) (start n : Nat) :
    x.extractLsb' (start + n + n + n) n ++ x.extractLsb' (start + n + n) n ++ x.extractLsb' (start + n) n ++
      x.extractLsb' start n = x.extractLsb' start (n + n + n + n) := by
  rw [BitVec.extractLsb'_append_extractLsb'_eq_extractLsb' rfl, BitVec.extractLsb'_append_extractLsb'_eq_extractLsb' rfl,
    BitVec.extractLsb'_append_extractLsb'_eq_extractLsb' rfl]

/-! Words on a vector (R52) -/

@[simp] theorem keyVector_word0 (k : Key) : (keyVector k).extractLsb' 0 32 = k.k0 := append4_part0 ..
@[simp] theorem keyVector_word1 (k : Key) : (keyVector k).extractLsb' 32 32 = k.k1 := append4_part1 ..
@[simp] theorem keyVector_word2 (k : Key) : (keyVector k).extractLsb' 64 32 = k.k2 := append4_part2 ..
@[simp] theorem keyVector_word3 (k : Key) : (keyVector k).extractLsb' 96 32 = k.k3 := append4_part3 ..

theorem keyOfVector_keyVector (k : Key) : keyOfVector (keyVector k) = k := by
  simp [keyOfVector]

theorem keyVector_keyOfVector (d : BitVec 128) : keyVector (keyOfVector d) = d :=
  (append4_extractLsb' d 0 32).trans BitVec.extractLsb'_eq_self

theorem blockOfVector_blockVector (b : Block) : blockOfVector (blockVector b) = b := by
  simp [blockOfVector, blockVector_low, blockVector_high]

theorem blockVector_blockOfVector (d : BitVec 64) : blockVector (blockOfVector d) = d :=
  (BitVec.extractLsb'_append_extractLsb'_eq_extractLsb' rfl).trans BitVec.extractLsb'_eq_self

/-! Bytes of a word (R53) -/

section BytesOfAWord

variable (b0 b1 b2 b3 : Byte)

@[simp] theorem byteOfWord_wordOfBytes_0 : byteOfWord (wordOfBytes b0 b1 b2 b3) 0 = b0 := append4_part0 ..
@[simp] theorem byteOfWord_wordOfBytes_1 : byteOfWord (wordOfBytes b0 b1 b2 b3) 1 = b1 := append4_part1 ..
@[simp] theorem byteOfWord_wordOfBytes_2 : byteOfWord (wordOfBytes b0 b1 b2 b3) 2 = b2 := append4_part2 ..
@[simp] theorem byteOfWord_wordOfBytes_3 : byteOfWord (wordOfBytes b0 b1 b2 b3) 3 = b3 := append4_part3 ..

theorem toNat_append_byte {w : Nat} (x : BitVec w) (b : Byte) : (x ++ b).toNat = b.toNat + 2 ^ 8 * x.toNat := by
  rw [BitVec.toNat_append, ← Nat.shiftLeft_add_eq_or_of_lt b.isLt, Nat.shiftLeft_eq, Nat.add_comm, Nat.mul_comm]

/-- The little-endian formula of R53. -/
theorem wordOfBytes_toNat : (wordOfBytes b0 b1 b2 b3).toNat =
    b0.toNat + 2 ^ 8 * b1.toNat + 2 ^ 16 * b2.toNat + 2 ^ 24 * b3.toNat := by
  change (b3 ++ b2 ++ b1 ++ b0).toNat = _
  simp only [toNat_append_byte]
  omega

end BytesOfAWord

/-- A word is read from four neighbouring byte slices of a vector. -/
theorem wordOfBytes_extractLsb' {w : Nat} (d : BitVec w) (start : Nat) :
    wordOfBytes (d.extractLsb' start 8) (d.extractLsb' (start + 8) 8) (d.extractLsb' (start + 16) 8)
      (d.extractLsb' (start + 24) 8) = d.extractLsb' start 32 := append4_extractLsb' d start 8

theorem wordOfBytes_byteOfWord (w : Word) :
    wordOfBytes (byteOfWord w 0) (byteOfWord w 1) (byteOfWord w 2) (byteOfWord w 3) = w :=
  (wordOfBytes_extractLsb' w 0).trans BitVec.extractLsb'_eq_self

theorem blockOfBytes_bytesOfBlock (b : Block) : blockOfBytes (bytesOfBlock b) = b := by
  simp [blockOfBytes, bytesOfBlock, wordOfBytes_byteOfWord]

theorem bytesOfBlock_blockOfBytes (b : Vector Byte 8) : bytesOfBlock (blockOfBytes b) = b := by
  apply Vector.ext
  intro j hj
  interval_cases j <;> simp [bytesOfBlock, blockOfBytes]

/-! Bytes on a vector (R54) -/

/-- Byte `j` of a vector is byte `j mod 4` of its word `j / 4`. -/
theorem extractLsb'_byte_eq_byteOfWord {w : Nat} (d : BitVec w) (j : Nat) :
    d.extractLsb' (8 * j) 8 = byteOfWord (d.extractLsb' (32 * (j / 4)) 32) (j % 4) := by
  apply BitVec.eq_of_getLsbD_eq
  intro i hi
  have hin : 8 * (j % 4) + i < 32 := by omega
  have hbit : 32 * (j / 4) + (8 * (j % 4) + i) = 8 * j + i := by omega
  simp [byteOfWord, hin, hbit]

theorem keyVector_keyOfBytes_byte (b : Vector Byte 16) (j : Nat) (h : j < 16) :
    (keyVector (keyOfBytes b)).extractLsb' (8 * j) 8 = b[j] := by
  rw [extractLsb'_byte_eq_byteOfWord]
  interval_cases j <;> simp [keyOfBytes]

theorem blockVector_byte (b : Block) (j : Nat) (h : j < 8) :
    (blockVector b).extractLsb' (8 * j) 8 = (bytesOfBlock b)[j] := by
  rw [extractLsb'_byte_eq_byteOfWord]
  interval_cases j <;> simp [bytesOfBlock, blockVector_low, blockVector_high]

/-- A vector that carries the bytes of a key fixture carries its key. -/
theorem keyOfVector_eq_keyOfBytes {d : BitVec 128} {b : Vector Byte 16}
    (h : ∀ (j : Nat) (hj : j < 16), d.extractLsb' (8 * j) 8 = b[j]) : keyOfVector d = keyOfBytes b := by
  simp only [keyOfVector, keyOfBytes, ← h, ← wordOfBytes_extractLsb']

/-- A vector whose low eight bytes are those of a block fixture carries its block in the low half. -/
theorem blockOfVector_eq_blockOfBytes {d : BitVec 128} {b : Vector Byte 8}
    (h : ∀ (j : Nat) (hj : j < 8), d.extractLsb' (8 * j) 8 = b[j]) :
    blockOfVector (d.extractLsb' 0 64) = blockOfBytes b := by
  have hword : ∀ start ≤ 32, (d.extractLsb' 0 64).extractLsb' start 32 = d.extractLsb' start 32 := fun _ hs =>
    BitVec.extractLsb'_extractLsb'_of_le (Nat.add_le_add_right hs 32)
  simp only [blockOfVector, blockOfBytes, ← h, hword, Nat.zero_le, Nat.le_refl, ← wordOfBytes_extractLsb']

end Sys2Proof.Machine
end

section
/-!
SUPPORT. What no command touches: the model's own fields (log entries 1, 6 and 11).
-/

namespace Sys2Proof.Machine

/-- A command uses up no edge, delivers no result and is no reset. -/
theorem exec_keeps_own_fields {i : Instr} {s t : State} (h : exec i s = .next t) :
    t.inputs = s.inputs ∧ t.edge = s.edge ∧ t.resetSeen = s.resetSeen ∧ t.taken = s.taken := by
  obtain ⟨-, ⟨-, rfl, -⟩ | ⟨-, _, _, _, _, -, rfl⟩ | ⟨-, -, _, _, -, rfl⟩ | ⟨-, -, _, _, -, rfl⟩⟩ :=
    exec_next_cases h <;> exact ⟨rfl, rfl, rfl, rfl⟩

end Sys2Proof.Machine
end

section
/-!
The obligations on packing and on what a step uses up (20_memory.md).
-/

namespace Sys2Proof.Machine

/-- Settles O6: the slices of both vectors, and the two packings with their inverses. -/
theorem wordsAreNumberedFromTheLeastSignificant : Obligations.WordsAreNumberedFromTheLeastSignificant :=
  ⟨fun k => ⟨keyVector_word0 k, keyVector_word1 k, keyVector_word2 k, keyVector_word3 k⟩,
    fun b => ⟨blockVector_low b, blockVector_high b⟩, keyOfVector_keyVector, keyVector_keyOfVector,
    blockOfVector_blockVector, blockVector_blockOfVector⟩

/-- Settles O7: every word of a fixture is `wordOfBytes` of its four bytes. -/
theorem byteFixturesAreLittleEndian : Obligations.ByteFixturesAreLittleEndian :=
  ⟨fun _ => ⟨wordOfBytes_toNat .., wordOfBytes_toNat .., wordOfBytes_toNat .., wordOfBytes_toNat ..⟩,
    fun _ => ⟨wordOfBytes_toNat .., wordOfBytes_toNat ..⟩, blockOfBytes_bytesOfBlock, bytesOfBlock_blockOfBytes⟩

/-- Settles O8: the decoder's words are those of the vector on `cmd_data`, which its byte slices determine. -/
theorem bytesOnThePorts : Obligations.BytesOnThePorts := by
  refine ⟨keyVector_keyOfBytes_byte, fun d b h => ?_, fun d b h => ⟨?_, ?_⟩, blockVector_byte⟩
  · rw [← keyOfVector_eq_keyOfBytes h]
    exact decode_commandOf_setkey (e := { quietEdge with cmdOp := 1#2, cmdData := d }) rfl
  · rw [← blockOfVector_eq_blockOfBytes h]
    exact decode_commandOf_encrypt (e := { quietEdge with cmdOp := 2#2, cmdData := d }) rfl
  · rw [← blockOfVector_eq_blockOfBytes h]
    exact decode_commandOf_decrypt (e := { quietEdge with cmdOp := 3#2, cmdData := d }) rfl

/-- Settles O38, by the row of the step relation taken: only the take writes the list of results. -/
theorem everyStepUsesOneEdge : Obligations.EveryStepUsesOneEdge := by
  intro s t hst
  obtain ⟨-, rfl⟩ | ⟨-, -, -, -, rfl⟩ | ⟨hr, -, row⟩ := step_next_cases hst
  · exact ⟨rfl, rfl, fun _ => rfl, .inl rfl⟩
  · exact ⟨rfl, rfl, id, .inl rfl⟩
  · obtain ⟨-, -, he⟩ | ⟨-, -, rfl⟩ | ⟨-, -, rfl⟩ | ⟨hp, hy, rfl⟩ | ⟨rfl, -⟩ := row
    · obtain ⟨hinputs, hedge, hseen, htaken⟩ := exec_keeps_own_fields he
      exact ⟨hinputs, hedge, hseen.trans, .inl htaken⟩
    · exact ⟨rfl, rfl, id, .inl rfl⟩
    · exact ⟨rfl, rfl, id, .inl rfl⟩
    · exact ⟨rfl, rfl, id, .inr ⟨rfl, hp, hy, hr, rfl⟩⟩
    · exact ⟨rfl, rfl, id, .inl rfl⟩

end Sys2Proof.Machine
end

section
/-!
SUPPORT. Decoding by opcode, and how decoding and encoding undo each other (30_encoding.md R71 to R81).
-/

namespace Sys2Proof

/-! What the decoder answers, and only on which opcode -/

theorem decode_of_opOf_setkey {cw : CommandWord} (h : opOf cw = 1#2) :
    decode cw = .setkey (wordOf cw 0) (wordOf cw 1) (wordOf cw 2) (wordOf cw 3) := by simp [decode, h]

theorem decode_of_opOf_encrypt {cw : CommandWord} (h : opOf cw = 2#2) :
    decode cw = .encrypt (wordOf cw 0) (wordOf cw 1) := by simp [decode, h]

theorem decode_of_opOf_decrypt {cw : CommandWord} (h : opOf cw = 3#2) :
    decode cw = .decrypt (wordOf cw 0) (wordOf cw 1) := by simp [decode, h]

theorem decode_of_opOf_reserved {cw : CommandWord} (h : opOf cw = 0#2) : decode cw = .reserved00 := by
  simp [decode, h]

/-- A word decodes to an instruction of its own opcode (R72, R78). -/
theorem opcode_decode (cw : CommandWord) : (decode cw).opcode = opOf cw := by
  have hop : opOf cw = 0#2 ∨ opOf cw = 1#2 ∨ opOf cw = 2#2 ∨ opOf cw = 3#2 := by bv_omega
  obtain h | h | h | h := hop
  · rw [decode_of_opOf_reserved h, h]; rfl
  · rw [decode_of_opOf_setkey h, h]; rfl
  · rw [decode_of_opOf_encrypt h, h]; rfl
  · rw [decode_of_opOf_decrypt h, h]; rfl

theorem opOf_eq_of_decode_eq {cw : CommandWord} {i : Instr} (h : decode cw = i) : opOf cw = i.opcode := by
  rw [← opcode_decode, h]

theorem decode_eq_setkey_iff (cw : CommandWord) : (∃ k0 k1 k2 k3, decode cw = .setkey k0 k1 k2 k3) ↔ opOf cw = 1#2 :=
  ⟨fun ⟨_, _, _, _, h⟩ => opOf_eq_of_decode_eq h, fun h => ⟨_, _, _, _, decode_of_opOf_setkey h⟩⟩

theorem decode_eq_encrypt_iff (cw : CommandWord) : (∃ v0 v1, decode cw = .encrypt v0 v1) ↔ opOf cw = 2#2 :=
  ⟨fun ⟨_, _, h⟩ => opOf_eq_of_decode_eq h, fun h => ⟨_, _, decode_of_opOf_encrypt h⟩⟩

theorem decode_eq_decrypt_iff (cw : CommandWord) : (∃ v0 v1, decode cw = .decrypt v0 v1) ↔ opOf cw = 3#2 :=
  ⟨fun ⟨_, _, h⟩ => opOf_eq_of_decode_eq h, fun h => ⟨_, _, decode_of_opOf_decrypt h⟩⟩

theorem decode_eq_reserved_iff (cw : CommandWord) : decode cw = .reserved00 ↔ opOf cw = 0#2 :=
  ⟨opOf_eq_of_decode_eq, decode_of_opOf_reserved⟩

/-! Decoding an encoded instruction -/

/-- Every instruction, the reserved code included, survives encoding and decoding (R78). -/
theorem decode_encode (i : Instr) : decode (encode i) = i := by
  cases i with
  | setkey k0 k1 k2 k3 =>
    obtain ⟨h0, h1, h2, h3⟩ := wordOf_formatK 1#2 k0 k1 k2 k3
    rw [encode, decode_of_opOf_setkey (opOf_formatK ..), h0, h1, h2, h3]
  | encrypt v0 v1 =>
    obtain ⟨h0, h1⟩ := wordOf_formatB 2#2 0#64 v0 v1
    rw [encode, decode_of_opOf_encrypt (opOf_formatB ..), h0, h1]
  | decrypt v0 v1 =>
    obtain ⟨h0, h1⟩ := wordOf_formatB 3#2 0#64 v0 v1
    rw [encode, decode_of_opOf_decrypt (opOf_formatB ..), h0, h1]
  | reserved00 => exact decode_of_opOf_reserved (opOf_formatB ..)

/-! Encoding a decoded word -/

/-- Two neighbouring fields of a command word are one field. -/
theorem append_fields (cw : CommandWord) (start n m : Nat) :
    cw.extractLsb' (start + n) m ++ cw.extractLsb' start n = cw.extractLsb' start (m + n) :=
  BitVec.extractLsb'_append_extractLsb'_eq_extractLsb' rfl

/-- A command word is its opcode and `cmd_data` (R70). -/
theorem opOf_append_data (cw : CommandWord) : (opOf cw ++ cw.extractLsb' 0 128 : CommandWord) = cw :=
  (append_fields cw 0 128 2).trans BitVec.extractLsb'_eq_self

/-- Format K has no bit but its fields (R71). -/
theorem formatK_fields (cw : CommandWord) :
    formatK (opOf cw) (wordOf cw 0) (wordOf cw 1) (wordOf cw 2) (wordOf cw 3) = cw := by
  have h3 : opOf cw ++ wordOf cw 3 = cw.extractLsb' 96 34 := append_fields cw 96 32 2
  have h2 : cw.extractLsb' 96 34 ++ wordOf cw 2 = cw.extractLsb' 64 66 := append_fields cw 64 32 34
  have h1 : cw.extractLsb' 64 66 ++ wordOf cw 1 = cw.extractLsb' 32 98 := append_fields cw 32 32 66
  have h0 : cw.extractLsb' 32 98 ++ wordOf cw 0 = cw.extractLsb' 0 130 := append_fields cw 0 32 98
  rw [formatK, h3, h2, h1, h0, BitVec.extractLsb'_eq_self]

/-- The operand fields of format B are the low half of `cmd_data` (R71, R74). -/
theorem formatB_fields (op : BitVec 2) (ign : BitVec 64) (cw : CommandWord) :
    formatB op ign (wordOf cw 0) (wordOf cw 1) = op ++ ign ++ cw.extractLsb' 0 64 := by
  have hlow : wordOf cw 1 ++ wordOf cw 0 = cw.extractLsb' 0 64 := append_fields cw 0 32 32
  rw [formatB, BitVec.append_assoc, hlow]
  rfl

theorem encode_decode_setkey {cw : CommandWord} (h : opOf cw = 1#2) : encode (decode cw) = cw := by
  rw [decode_of_opOf_setkey h, encode, ← h, formatK_fields]

/-- Decoding an operation forgets the ignored field, and encoding puts zeros in its place (R75, R78). -/
theorem encode_decode_operation {cw : CommandWord} (h : opOf cw = 2#2 ∨ opOf cw = 3#2) :
    encode (decode cw) = opOf cw ++ 0#64 ++ cw.extractLsb' 0 64 := by
  obtain h | h := h
  · rw [decode_of_opOf_encrypt h, encode, ← h, formatB_fields]
  · rw [decode_of_opOf_decrypt h, encode, ← h, formatB_fields]

/-! The rows of the opcode table -/

/-- The mask of the opcode table keeps the opcode and clears `cmd_data`, so a row is met exactly by its opcode (R81). -/
theorem and_opcodeMask_eq_iff (cw : CommandWord) (op : BitVec 2) :
    cw &&& 0x300000000000000000000000000000000#130 = op ++ 0#128 ↔ opOf cw = op := by
  have hmask : (0x300000000000000000000000000000000#130 : CommandWord) = BitVec.allOnes 2 ++ 0#128 := by decide
  have hand : cw &&& (BitVec.allOnes 2 ++ 0#128) = opOf cw ++ 0#128 := by
    conv_lhs => rw [← opOf_append_data cw]
    rw [BitVec.and_append, BitVec.and_allOnes, BitVec.and_zero]
  rw [hmask, hand, BitVec.append_left_inj]

/-! Numbers read as command words -/

theorem decodeNumber_toNat (cw : CommandWord) : decodeNumber cw.toNat = .ok (decode cw) := by
  rw [decodeNumber, if_pos cw.isLt, BitVec.ofNat_toNat, BitVec.setWidth_eq]

/-- Enough bits to hold a command word give the word itself (R70). -/
theorem decodeTableWord_toNat {nbits : Nat} (h : 130 ≤ nbits) (cw : CommandWord) :
    decodeTableWord nbits cw.toNat = some (decode cw) := by
  have hlt : cw.toNat < 2 ^ nbits := cw.isLt.trans_le (Nat.pow_le_pow_right (by decide) h)
  rw [decodeTableWord, Nat.mod_eq_of_lt hlt, decodeNumber_toNat]

/-- A number is no command word exactly if it has a bit above bit 129 (log entry 13). -/
theorem decodeTableWord_eq_none_iff {nbits w : Nat} (h : w < 2 ^ nbits) :
    decodeTableWord nbits w = none ↔ 2 ^ 130 ≤ w := by
  rw [decodeTableWord, Nat.mod_eq_of_lt h, decodeNumber]
  by_cases hw : w < 2 ^ 130
  · rw [if_pos hw]
    exact iff_of_false nofun (Nat.not_le.mpr hw)
  · rw [if_neg hw]
    exact iff_of_true rfl (Nat.not_lt.mp hw)

end Sys2Proof
end

section
/-!
SUPPORT. The ignored field of an operation on the command port (30_encoding.md R75).
-/

namespace Sys2Proof.Machine

/-- `cmd_data` is read in one row of the step relation only, the issue (10_state.md R42). -/
theorem edgeEvent_other_data {s : State} {e : Edge} (d : BitVec 128)
    (h : ¬ (s.resetSeen = true ∧ s.phase = .idle ∧ e.rst = false ∧ e.cmdValid = true)) :
    edgeEvent s { e with cmdData := d } = edgeEvent s e := by
  cases hp : s.phase with
  | idle =>
    have hno : e.rst = true ∨ s.resetSeen = false ∨ e.cmdValid = false := by
      by_contra hall
      simp only [not_or, Bool.not_eq_true, Bool.not_eq_false] at hall
      obtain ⟨hr, hs, hv⟩ := hall
      exact h ⟨hs, hp, hr, hv⟩
    obtain hr | hs | hv := hno
    · simp [edgeEvent, hr]
    · simp [edgeEvent, hs]
    · simp [edgeEvent, hp, hv]
  | enc | dec | done => simp only [edgeEvent, hp]

/-- Two operands that decode to the same command are the same to the step. -/
theorem step_other_data {s : State} {e : Edge} {es : List Edge} {d : BitVec 128}
    (h : decode (commandOf { e with cmdData := d }) = decode (commandOf e)) :
    step { s with inputs := { e with cmdData := d } :: es } = step { s with inputs := e :: es } := by
  by_cases hissue : s.resetSeen = true ∧ s.phase = .idle ∧ e.rst = false ∧ e.cmdValid = true
  · obtain ⟨hs, hp, hr, hv⟩ := hissue
    rw [step_issue (s := { s with inputs := e :: es }) hr hv hs hp,
      step_issue (s := { s with inputs := { e with cmdData := d } :: es }) hr hv hs hp]
    exact congrArg (exec · _) h
  · exact step_congr (edgeEvent_other_data (s := { s with inputs := e :: es }) d hissue) rfl

/-- An operation reads the low half of `cmd_data` only (R74, R75). -/
theorem decode_other_ignored_field {e : Edge} (ign : BitVec 64) (h : e.cmdOp = 2#2 ∨ e.cmdOp = 3#2) :
    decode (commandOf { e with cmdData := (ign ++ e.cmdData.extractLsb' 0 64 : BitVec 128) }) =
      decode (commandOf e) := by
  have hlow : (ign ++ e.cmdData.extractLsb' 0 64 : BitVec 128).extractLsb' 0 64 = e.cmdData.extractLsb' 0 64 :=
    BitVec.extractLsb'_append_eq_right
  obtain h | h := h
  · rw [decode_commandOf_encrypt h, decode_commandOf_encrypt (by exact h), hlow]
  · rw [decode_commandOf_decrypt h, decode_commandOf_decrypt (by exact h), hlow]

end Sys2Proof.Machine
end

section
/-!
SUPPORT. Runs over many edges: edges at which nothing happens, the 32 rounds of an operation at any pace, and an
operation from its issue to its take (30_encoding.md R86, 42_encrypt.md R155, 43_decrypt.md R175).
-/

namespace Sys2Proof.Machine

/-! Edges at which nothing happens -/

theorem step_hold {s : State} (h : edgeEvent s s.pins = .hold) : step s = .next s.tick := by simp only [step, h]

/-- Edges at which nothing happens only pass (10_state.md R39, R43). -/
theorem run_hold {es rest : List Edge} {s : State} (hin : s.inputs = es ++ rest)
    (hold : ∀ e ∈ es, edgeEvent s e = .hold) :
    Sys2Proof.core.run es.length s = .next { s with inputs := rest, edge := s.edge + es.length } := by
  induction es generalizing s with
  | nil =>
    rw [List.nil_append] at hin
    subst hin
    rfl
  | cons e es ih =>
    rw [List.forall_mem_cons] at hold
    obtain ⟨he, hes⟩ := hold
    have hstep : step s = .next s.tick := step_hold (by rw [State.pins_cons hin, he])
    have htick : s.tick.inputs = es ++ rest := by rw [State.tick_inputs, hin, List.cons_append, List.tail_cons]
    rw [List.length_cons, run_succ _ hstep, ih htick hes, State.tick_edge, Nat.add_assoc, Nat.add_comm 1]
    rfl

/-- In `IDLE`, after the first reset, nothing happens at an edge without a reset and without a command (R39). -/
theorem edgeEvent_idle_quiet {s : State} {e : Edge} (hs : s.resetSeen = true) (hp : s.phase = .idle)
    (hr : e.rst = false) (hv : e.cmdValid = false) : edgeEvent s e = .hold := by
  simp [edgeEvent_live hs hr, hp, hv]

/-- In `DONE`, nothing happens at an edge without a reset and without a take (R43). -/
theorem edgeEvent_done_untaken {s : State} {e : Edge} (hs : s.resetSeen = true) (hp : s.phase = .done)
    (hr : e.rst = false) (hy : e.resReady = false) : edgeEvent s e = .hold := by
  simp [edgeEvent_live hs hr, hp, hy]

/-! The rounds that a list of edges completes -/

/-- At how many of the edges a running round completes (log entry 3). -/
def roundsDue (es : List Edge) : Nat := (es.filter (·.roundDue)).length

@[simp] theorem roundsDue_nil : roundsDue [] = 0 := rfl

theorem roundsDue_cons_due {e : Edge} (es : List Edge) (hd : e.roundDue = true) :
    roundsDue (e :: es) = roundsDue es + 1 := by simp [roundsDue, hd]

theorem roundsDue_cons_pending {e : Edge} (es : List Edge) (hd : e.roundDue = false) :
    roundsDue (e :: es) = roundsDue es := by simp [roundsDue, hd]

theorem roundsDue_append_due {e : Edge} (es : List Edge) (hd : e.roundDue = true) :
    roundsDue (es ++ [e]) = roundsDue es + 1 := by simp [roundsDue, hd]

/-! The two operations side by side -/

/-- The operations of the core: what follows differs between them only in the five functions below. -/
inductive Operation where
  | encrypt
  | decrypt

/-- The command that starts the operation on a block. -/
def Operation.command (d : Operation) (b : Block) : Instr :=
  match d with
  | .encrypt => .encrypt b.v0 b.v1
  | .decrypt => .decrypt b.v0 b.v1

/-- The phase while the operation runs. -/
def Operation.phase (d : Operation) : Phase :=
  match d with
  | .encrypt => .enc
  | .decrypt => .dec

/-- `SUM` at the start of the operation. -/
def Operation.sumInit (d : Operation) : Word :=
  match d with
  | .encrypt => sumEncInit
  | .decrypt => sumDecInit

/-- The round the operation repeats. -/
def Operation.round (d : Operation) (k : Key) (w : Work) : Work :=
  match d with
  | .encrypt => encRound k w
  | .decrypt => decRound k w

/-- The function of the block that the operation computes. -/
def Operation.cipher (d : Operation) (k : Key) (b : Block) : Block :=
  match d with
  | .encrypt => enc k b
  | .decrypt => dec k b

/-- The body of the loop of `Enc` is the encrypt round (42_encrypt.md R151, R152). -/
theorem encBody_eq_encRound (k : Key) : encBody k = encRound k := rfl

/-- The body of the loop of `Dec` is the decrypt round (43_decrypt.md R171, R172). -/
theorem decBody_eq_decRound (k : Key) : decBody k = decRound k := rfl

namespace Operation

/-- What the first round of the operation on a block works on. -/
def start (d : Operation) (b : Block) : Work := { v0 := b.v0, v1 := b.v1, sum := d.sumInit }

/-- The block words after 32 rounds are those of the cipher. -/
theorem cipher_eq (d : Operation) (k : Key) (b : Block) :
    d.cipher k b =
      { v0 := (repeatTimes (d.round k) 32 (d.start b)).v0, v1 := (repeatTimes (d.round k) 32 (d.start b)).v1 } := by
  cases d with
  | encrypt => rw [cipher, enc, encBody_eq_encRound]; rfl
  | decrypt => rw [cipher, dec, decBody_eq_decRound]; rfl

theorem exec_command (d : Operation) (b : Block) (s : State) :
    exec (d.command b) s = issueWhenReady s true (s.startOperation d.phase b d.sumInit) := by
  cases d <;> rfl

/-- The issue of an operation with a key loaded (42_encrypt.md R150, 43_decrypt.md R170). -/
theorem step_issues_command {d : Operation} {b : Block} {s : State} (h : s.Issues (d.command b))
    (hk : s.keyValid = true) : step s = .next (s.tick.startOperation d.phase b d.sumInit) := by
  have ⟨hs, hp, _⟩ := h
  rw [step_issues h, exec_command, issueWhenReady_issues (s := s.tick) hs hp fun _ => hk]

/-! One edge of a running operation -/

/-- What a round step does to the state (42_encrypt.md R154, 43_decrypt.md R174). -/
def roundStep (d : Operation) (s : State) : State := (s.setWork (d.round s.k s.work)).countRound

/-- Before the last round the count does not make 32. -/
theorem succ_rnd_ne_32 {rnd : BitVec 6} (h : rnd.toNat < 31) : rnd + 1#6 ≠ 32#6 := fun heq =>
  absurd ((succ_rnd_eq_32_iff rnd).mp heq) (Nat.ne_of_lt h)

/-- A round that is not the last leaves the phase. -/
theorem roundStep_phase_of_lt (d : Operation) {s : State} (hn : s.rnd.toNat < 31) :
    (d.roundStep s).phase = s.phase := if_neg (succ_rnd_ne_32 hn)

section Running

variable {d : Operation} {s : State} (hs : s.resetSeen = true) (hp : s.phase = d.phase)
include hs hp

/-- The edge at which a round completes. -/
theorem step_round (hr : s.pins.rst = false) (hd : s.pins.roundDue = true) :
    step s = .next (d.roundStep s.tick) := by
  cases d with
  | encrypt => exact step_encRound hs hr hp hd
  | decrypt => exact step_decRound hs hr hp hd

/-- An edge at which the running round does not complete. -/
theorem step_pending (hr : s.pins.rst = false) (hd : s.pins.roundDue = false) : step s = .next s.tick := by
  refine step_round_pending hs hr ?_ hd
  cases d with
  | encrypt => exact .inl hp
  | decrypt => exact .inr hp

end Running

/-! Many edges of a running operation -/

/-- `s` after the edges `es`, with `rest` to come: each round due in `es` is one round of the operation, and the phase
stands. -/
def afterRounds (d : Operation) (s : State) (es rest : List Edge) : State :=
  { s.setWork (repeatTimes (d.round s.k) (roundsDue es) s.work) with
    rnd := s.rnd + BitVec.ofNat 6 (roundsDue es), inputs := rest, edge := s.edge + es.length }

theorem afterRounds_nil (d : Operation) (s : State) : d.afterRounds s [] s.inputs = s := by
  simp [afterRounds, repeatTimes, State.setWork]

theorem afterRounds_cons_pending (d : Operation) (s : State) {e : Edge} (es rest : List Edge)
    (hd : e.roundDue = false) : d.afterRounds s (e :: es) rest = d.afterRounds s.tick es rest := by
  simp [afterRounds, roundsDue_cons_pending es hd, State.setWork, Nat.add_assoc, Nat.add_comm 1]

theorem afterRounds_cons_due (d : Operation) {s : State} {e : Edge} (es rest : List Edge)
    (hd : e.roundDue = true) (hn : s.rnd.toNat < 31) :
    d.afterRounds s (e :: es) rest = d.afterRounds (d.roundStep s.tick) es rest := by
  simp [afterRounds, roundStep, roundsDue_cons_due es hd, succ_rnd_ne_32 hn, State.setWork, State.work,
    repeatTimes_succ, Nat.add_assoc, Nat.add_comm 1, BitVec.ofNat_add, BitVec.add_assoc, BitVec.add_comm 1#6]

/-- The 32nd round of an operation ends it. -/
theorem roundStep_afterRounds (d : Operation) {s : State} {e : Edge} {es : List Edge} (rest : List Edge)
    (hd : e.roundDue = true) (hn : s.rnd.toNat + roundsDue es = 31) :
    d.roundStep (d.afterRounds s es (e :: rest)).tick = { d.afterRounds s (es ++ [e]) rest with phase := .done } := by
  have hlast : s.rnd + BitVec.ofNat 6 (roundsDue es) + 1#6 = 32#6 := by bv_omega
  simp [afterRounds, roundStep, roundsDue_append_due es hd, hlast, State.setWork, State.work, State.tick,
    State.countRound, repeatTimes_succ_outer, Nat.add_assoc, BitVec.ofNat_add, ← BitVec.add_assoc]

/-- An operation goes on at whatever pace while its last round is not due (70_reset_and_hazards.md R239). -/
theorem run_rounds {d : Operation} {es rest : List Edge} {s : State} (hs : s.resetSeen = true)
    (hp : s.phase = d.phase) (hin : s.inputs = es ++ rest) (hr : ∀ e ∈ es, e.rst = false)
    (hn : s.rnd.toNat + roundsDue es < 32) :
    Sys2Proof.core.run es.length s = .next (d.afterRounds s es rest) := by
  induction es generalizing s with
  | nil => rw [← List.nil_append rest, ← hin, afterRounds_nil]; rfl
  | cons e es ih =>
    rw [List.forall_mem_cons] at hr
    obtain ⟨her, hesr⟩ := hr
    have hpins := State.pins_cons hin
    have htail : s.inputs.tail = es ++ rest := by rw [hin]; rfl
    rw [List.length_cons]
    cases hd : e.roundDue with
    | false =>
      rw [roundsDue_cons_pending es hd] at hn
      rw [run_succ _ (step_pending hs hp (hpins ▸ her) (hpins ▸ hd)), afterRounds_cons_pending d s es rest hd]
      exact ih (s := s.tick) hs hp htail hesr hn
    | true =>
      rw [roundsDue_cons_due es hd] at hn
      have hlt : s.rnd.toNat < 31 := by omega
      have hcount : (s.rnd + 1#6).toNat = s.rnd.toNat + 1 := succ_rnd_toNat (by omega)
      have hrounds : (s.rnd + 1#6).toNat + roundsDue es < 32 := by omega
      have hphase : (d.roundStep s.tick).phase = d.phase := (roundStep_phase_of_lt d (s := s.tick) hlt).trans hp
      rw [run_succ _ (step_round hs hp (hpins ▸ her) (hpins ▸ hd)), afterRounds_cons_due d es rest hd hlt]
      exact ih (s := d.roundStep s.tick) hs hphase htail hesr hrounds

/-- The 32nd round of an operation is its last, and the one that ends it (42_encrypt.md R154, 43_decrypt.md R174). -/
theorem run_to_done {d : Operation} {es rest : List Edge} {e : Edge} {s : State} (hs : s.resetSeen = true)
    (hp : s.phase = d.phase) (hin : s.inputs = es ++ e :: rest) (hr : ∀ x ∈ es, x.rst = false) (her : e.rst = false)
    (hd : e.roundDue = true) (hn : s.rnd.toNat + roundsDue es = 31) :
    Sys2Proof.core.run (es.length + 1) s = .next { d.afterRounds s (es ++ [e]) rest with phase := .done } := by
  have hpins : (d.afterRounds s es (e :: rest)).pins = e := State.pins_cons rfl
  have hlast : step (d.afterRounds s es (e :: rest)) = .next (d.roundStep (d.afterRounds s es (e :: rest)).tick) :=
    step_round hs hp (by rw [hpins, her]) (by rw [hpins, hd])
  rw [run_add 1 (run_rounds hs hp hin hr (by omega)), run_one hlast, roundStep_afterRounds d rest hd hn]

/-- An operation from its issue to `DONE`, at every pace of its 32 rounds (42_encrypt.md R155, 43_decrypt.md R175). -/
theorem run_computes {d : Operation} {s : State} {b : Block} {es rest : List Edge} (hissue : s.Issues (d.command b))
    (hk : s.keyValid = true) (hes : RoundsComplete es) (hin : s.inputs.tail = es ++ rest) :
    Sys2Proof.core.run (es.length + 1) s =
      .next { s with v := d.cipher s.k b, sum := (repeatTimes (d.round s.k) 32 (d.start b)).sum, rnd := 32#6,
                     phase := .done, inputs := rest, edge := s.edge + (es.length + 1) } := by
  obtain ⟨hr, before, last, rfl, hd, hcount⟩ := hes
  have hs := hissue.1
  rw [List.forall_mem_append, List.forall_mem_singleton] at hr
  rw [List.append_assoc] at hin
  have hdue : roundsDue before = 31 := hcount
  have hrun := run_to_done (d := d) (s := s.tick.startOperation d.phase b d.sumInit) hs rfl hin hr.1 hr.2 hd
    ((Nat.zero_add _).trans hdue)
  rw [List.length_append, List.length_singleton, run_succ _ (step_issues_command hissue hk), hrun, cipher_eq]
  simp [afterRounds, roundsDue_append_due before hd, hdue, State.setWork, State.work, start, Nat.add_assoc,
    Nat.add_comm 1]

end Operation

/-- A result that waits and is then taken, however late (10_state.md R43). -/
theorem run_take {late rest : List Edge} {f : Edge} {s : State} (hs : s.resetSeen = true) (hp : s.phase = .done)
    (hin : s.inputs = late ++ f :: rest) (hlate : ∀ e ∈ late, e.rst = false ∧ e.resReady = false)
    (hf : AcceptsResult f) :
    Sys2Proof.core.run (late.length + 1) s =
      .next { s with phase := .idle, taken := s.taken ++ [blockVector s.v], inputs := rest,
                     edge := s.edge + (late.length + 1) } := by
  have hwait := run_hold hin fun e he => edgeEvent_done_untaken hs hp (hlate e he).1 (hlate e he).2
  have htakes : State.Takes { s with inputs := f :: rest, edge := s.edge + late.length } := ⟨hs, hp, hf⟩
  rw [run_add 1 hwait, run_one (step_takes htakes)]
  rfl

/-- An operation from its issue to its take, at every pace and however late the take (42_encrypt.md R155,
43_decrypt.md R175). -/
theorem run_operation {d : Operation} {s : State} {b : Block} {es late rest : List Edge} {f : Edge}
    (hissue : s.Issues (d.command b)) (hk : s.keyValid = true) (hes : RoundsComplete es)
    (hin : s.inputs.tail = es ++ (late ++ f :: rest)) (hlate : ∀ e ∈ late, e.rst = false ∧ e.resReady = false)
    (hf : AcceptsResult f) :
    Sys2Proof.core.run (es.length + 1 + (late.length + 1)) s =
      .next { s with v := d.cipher s.k b, sum := (repeatTimes (d.round s.k) 32 (d.start b)).sum, rnd := 32#6,
                     phase := .idle, taken := s.taken ++ [blockVector (d.cipher s.k b)], inputs := rest,
                     edge := s.edge + (es.length + 1) + (late.length + 1) } := by
  have hs := hissue.1
  rw [run_add _ (Operation.run_computes hissue hk hes hin)]
  exact run_take hs rfl rfl hlate hf

/-- The issue of a `SETKEY` and idle edges after it (40_key_schedule.md R100). -/
theorem run_setkey {gap rest : List Edge} {k : Key} {s : State} (hissue : s.Issues (.setkey k.k0 k.k1 k.k2 k.k3))
    (hin : s.inputs.tail = gap ++ rest) (hgap : ∀ e ∈ gap, e.rst = false ∧ e.cmdValid = false) :
    Sys2Proof.core.run (gap.length + 1) s =
      .next { s with k := k, keyValid := true, inputs := rest, edge := s.edge + (gap.length + 1) } := by
  have ⟨hs, hp, _⟩ := hissue
  have hstep : step s = .next (s.tick.loadKey k) := by
    rw [step_issues hissue, exec_setkey, issueWhenReady_issues (s := s.tick) (needsKey := false) hs hp nofun]
  have hwait := run_hold (s := s.tick.loadKey k) hin fun e he =>
    edgeEvent_idle_quiet hs hp (hgap e he).1 (hgap e he).2
  rw [run_succ _ hstep, hwait, State.loadKey_edge, State.tick_edge, Nat.add_assoc, Nat.add_comm 1]
  rfl

/-! The pseudo-commands (R86) -/

/-- An edge made for a command issues it where `cmd_ready = 1` (10_state.md R42). -/
theorem issues_offerEdge {s : State} {i : Instr} {es : List Edge} (hs : s.resetSeen = true) (hp : s.phase = .idle)
    (hin : s.inputs = offerEdge (encode i) :: es) : s.Issues i := by
  refine ⟨hs, hp, ?_⟩
  rw [State.pins_cons hin]
  exact ⟨rfl, rfl, by rw [commandOf_offerEdge, decode_encode]⟩

/-- The moves of a pseudo-command deliver the cipher of its block under its key, from any idle state. -/
theorem run_keyedOperationMoves (d : Operation) {s : State} {k : Key} {b : Block} {gap es late rest : List Edge}
    (hs : s.resetSeen = true) (hp : s.phase = .idle)
    (hin : s.inputs = keyedOperationMoves k (d.command b) gap (es ++ late) ++ rest)
    (hgap : ∀ x ∈ gap, x.rst = false ∧ x.cmdValid = false) (hes : RoundsComplete es)
    (hlate : ∀ x ∈ late, x.rst = false ∧ x.resReady = false) :
    ∃ t, Sys2Proof.core.run (gap.length + es.length + late.length + 3) s = .next t ∧
      t.taken = s.taken ++ [blockVector (d.cipher k b)] ∧ t.k = k ∧ t.keyValid = true ∧ t.phase = .idle ∧
      t.inputs = rest := by
  have hmoves : s.inputs = offerEdge (encode (.setkey k.k0 k.k1 k.k2 k.k3)) ::
      (gap ++ offerEdge (encode (d.command b)) :: (es ++ (late ++ takeEdge :: rest))) := by
    simp [hin, keyedOperationMoves]
  have hsteps : gap.length + es.length + late.length + 3 =
      gap.length + 1 + (es.length + 1 + (late.length + 1)) := by omega
  rw [hsteps, run_add _ (run_setkey (issues_offerEdge hs hp hmoves) (by rw [hmoves]; rfl) hgap)]
  have hissue : State.Issues { s with
      k := k, keyValid := true, edge := s.edge + (gap.length + 1),
      inputs := offerEdge (encode (d.command b)) :: (es ++ (late ++ takeEdge :: rest)) } (d.command b) :=
    issues_offerEdge hs hp rfl
  exact ⟨_, run_operation hissue rfl hes rfl hlate ⟨rfl, rfl⟩, rfl, rfl, rfl, rfl, rfl⟩

end Sys2Proof.Machine
end

section
/-!
The obligations on the encoding (30_encoding.md).
-/

namespace Sys2Proof.Machine

/-- Settles O1: decoding by opcode, and both orders of decoding and encoding. -/
theorem decodeAndEncodeAgree : Obligations.DecodeAndEncodeAgree :=
  ⟨fun i _ => decode_encode i,
    fun _ => ⟨decode_of_opOf_setkey, decode_of_opOf_encrypt, decode_of_opOf_decrypt, decode_of_opOf_reserved⟩,
    fun _ => encode_decode_setkey, fun _ => encode_decode_operation⟩

/-- Settles O2: the decoder drops the field, and no other row of the step relation reads `cmd_data`. -/
theorem ignoredFieldHasNoEffect : Obligations.IgnoredFieldHasNoEffect := fun _ _ _ ign ho =>
  (step_other_data (decode_other_ignored_field ign ho)).symm

/-- Settles O3: each row says which opcode the word has, and so does the instruction it decodes to. -/
theorem opcodeTableSelectsTheCommand : Obligations.OpcodeTableSelectsTheCommand := fun cw =>
  ⟨(and_opcodeMask_eq_iff cw 1#2).trans (decode_eq_setkey_iff cw).symm,
    (and_opcodeMask_eq_iff cw 2#2).trans (decode_eq_encrypt_iff cw).symm,
    (and_opcodeMask_eq_iff cw 3#2).trans (decode_eq_decrypt_iff cw).symm,
    (and_opcodeMask_eq_iff cw 0#2).trans (decode_eq_reserved_iff cw).symm⟩

/-- Settles O4: a word of at least 130 bits is decoded whole. -/
theorem tableWordsAreReadBack : Obligations.TableWordsAreReadBack := by
  refine ⟨fun i => ?_, fun _ _ => decodeTableWord_eq_none_iff⟩
  rw [decodeTableWord_toNat (by decide), decodeTableWord_toNat (by decide), decode_encode]
  exact ⟨rfl, rfl⟩

/-- Settles O50: both pseudo-commands are the moves of one operation with its key. -/
theorem pseudoCommandsReturnTheResult : Obligations.PseudoCommandsReturnTheResult :=
  fun s _ _ _ _ _ _ hs hp hgap hes hlate =>
    ⟨run_keyedOperationMoves .encrypt (s := { s with inputs := _ }) hs hp rfl hgap hes hlate,
      run_keyedOperationMoves .decrypt (s := { s with inputs := _ }) hs hp rfl hgap hes hlate⟩

/-- Settles O5: each word is written out, so the decoder's answer is computed. -/
theorem sampleWordsDecode : Obligations.SampleWordsDecode :=
  ⟨by decide, by decide, by decide, by decide, by decide⟩

/-- Settles O29: the row of the step relation with opcode `0b00`. -/
theorem reservedOpcodeIsRefused : Obligations.ReservedOpcodeIsRefused := fun s hs hp =>
  ⟨exec_reserved00 s, fun hr hv ho => step_reserved hs hr hp hv ho⟩

end Sys2Proof.Machine
end

section
/-!
SUPPORT. The key schedule (40_key_schedule.md R103 to R107): the indices as slices of `SUM`, the key read, the subkeys,
and the values of `SUM`.
-/

namespace Sys2Proof.Machine

/-! The indices, the key read and the subkeys -/

/-- The mask of both indices keeps the two lowest bits, which is what a 2-bit value holds anyway. -/
theorem setWidth_and32_idxMask (x : Word) : (and32 x idxMask).setWidth 2 = x.setWidth 2 := by
  have hmask : idxMask.setWidth 2 = BitVec.allOnes 2 := by decide
  rw [and32, BitVec.setWidth_and, hmask, BitVec.and_allOnes]

/-- `idxA(s) = s[1:0]` (R103). -/
theorem idxA_eq_slice (s : Word) : idxA s = s.extractLsb' 0 2 :=
  (setWidth_and32_idxMask s).trans (BitVec.setWidth_eq_extractLsb' (by decide))

/-- `idxB(s) = s[12:11]` (R104). -/
theorem idxB_eq_slice (s : Word) : idxB s = s.extractLsb' 11 2 :=
  (setWidth_and32_idxMask (shr32 s idxShift)).trans BitVec.setWidth_ushiftRight_eq_extractLsb

@[simp] theorem keyRead_0 (k : Key) : keyRead k 0#2 = k.k0 := rfl
@[simp] theorem keyRead_1 (k : Key) : keyRead k 1#2 = k.k1 := rfl
@[simp] theorem keyRead_2 (k : Key) : keyRead k 2#2 = k.k2 := rfl
@[simp] theorem keyRead_3 (k : Key) : keyRead k 3#2 = k.k3 := rfl

theorem ska_eq_add_slice (k : Key) (s : Word) : ska k s = s + keyRead k (s.extractLsb' 0 2) := by
  rw [ska, idxA_eq_slice, add32]

theorem skb_eq_add_slice (k : Key) (s : Word) : skb k s = s + keyRead k (s.extractLsb' 11 2) := by
  rw [skb, idxB_eq_slice, add32]

/-! The values of `SUM` (R107) -/

theorem idxA_toNat (s : Word) : (idxA s).toNat = s.toNat % 4 :=
  (congrArg BitVec.toNat (setWidth_and32_idxMask s)).trans (BitVec.toNat_setWidth 2 s)

/-- Because `DELTA mod 4 = 1`, the first index cycles through the key words. -/
theorem idxA_sumAt_toNat (i : Nat) : (idxA (sumAt i)).toNat = i % 4 := by
  rw [idxA_toNat, sumAt_toNat]
  omega

/-- `DELTA` is odd, so its first `2^32` multiples are distinct modulo `2^32`. -/
theorem eq_of_sumAt_eq {i j : Nat} (hi : i < 2 ^ 32) (hj : j < 2 ^ 32) (h : sumAt i = sumAt j) : i = j := by
  have hcoprime : Nat.gcd 4294967296 2654435769 = 1 := by norm_num
  have hmod : i * 2654435769 ≡ j * 2654435769 [MOD 4294967296] := by rw [Nat.ModEq, ← sumAt_toNat, ← sumAt_toNat, h]
  exact (Nat.ModEq.cancel_right_of_coprime hcoprime hmod).eq_of_lt_of_lt hi hj

end Sys2Proof.Machine
end

section
/-!
SUPPORT. What each command leaves unchanged (40_key_schedule.md R100, 42_encrypt.md R150, 43_decrypt.md R170), beside the
model's own fields.
-/

namespace Sys2Proof.Machine

/-- The issue rule goes on with the old state or with the effect, and with nothing else. -/
theorem issueWhenReady_next {s t effect : State} {needsKey : Bool} (h : issueWhenReady s needsKey effect = .next t) :
    t = s ∨ t = effect := by
  obtain ⟨-, he⟩ | ⟨-, -, he⟩ | ⟨-, -, -, -, he⟩ | ⟨-, -, -, he⟩ := issueWhenReady_cases s effect needsKey <;>
    cases he.symm.trans h
  · exact .inl rfl
  · exact .inr rfl

theorem exec_setkey_frame {k0 k1 k2 k3 : Word} {s t : State} (h : exec (.setkey k0 k1 k2 k3) s = .next t) :
    t.v = s.v ∧ t.sum = s.sum ∧ t.rnd = s.rnd ∧ t.phase = s.phase := by
  obtain rfl | rfl := issueWhenReady_next h <;> exact ⟨rfl, rfl, rfl, rfl⟩

theorem exec_operation_frame {d : Operation} {b : Block} {s t : State} (h : exec (d.command b) s = .next t) :
    t.k = s.k ∧ t.keyValid = s.keyValid := by
  rw [Operation.exec_command] at h
  obtain rfl | rfl := issueWhenReady_next h <;> exact ⟨rfl, rfl⟩

/-- `SETKEY` in `IDLE` needs no key to be loaded (R100). -/
theorem exec_setkey_idle {s : State} (hs : s.resetSeen = true) (hp : s.phase = .idle) (k0 k1 k2 k3 : Word) :
    exec (.setkey k0 k1 k2 k3) s = .next (s.loadKey { k0 := k0, k1 := k1, k2 := k2, k3 := k3 }) :=
  issueWhenReady_issues hs hp nofun

end Sys2Proof.Machine
end

section
/-!
The obligations on the key store and the key schedule (40_key_schedule.md).
-/

namespace Sys2Proof.Machine

/-- Settles O14: `DELTA` is 1 modulo 4 and odd, and each value is the next multiple of it. -/
theorem sumValuesAreDistinctAndCycleTheKey : Obligations.SumValuesAreDistinctAndCycleTheKey :=
  ⟨idxA_sumAt_toNat, fun _ _ hi hj => eq_of_sumAt_eq (by omega) (by omega), fun i => (add32_sumAt_delta i).symm,
    sumEncInit_eq.symm, sumDecInit_eq.symm⟩

/-- Settles O31: one frame for `SETKEY`, one for both operations, and one for the model's own fields. -/
theorem commandFrames : Obligations.CommandFrames := by
  intro i s t h
  obtain ⟨hinputs, hedge, hseen, htaken⟩ := exec_keeps_own_fields h
  refine ⟨hinputs, hedge, htaken, hseen, ?_, ?_⟩
  · rintro k0 k1 k2 k3 rfl
    exact exec_setkey_frame h
  · rintro v0 v1 (rfl | rfl)
    · exact exec_operation_frame (d := .encrypt) (b := { v0 := v0, v1 := v1 }) h
    · exact exec_operation_frame (d := .decrypt) (b := { v0 := v0, v1 := v1 }) h

/-- Settles O13, by the indices as slices of `SUM`. -/
theorem subkeysAreSelectedBySum : Obligations.SubkeysAreSelectedBySum := fun k s =>
  ⟨idxA_eq_slice s, idxB_eq_slice s, keyRead_0 k, keyRead_1 k, keyRead_2 k, keyRead_3 k, ska_eq_add_slice k s,
    skb_eq_add_slice k s⟩

/-- Settles O25: the issue in `IDLE`, `cmd_ready` in the other phases, and the word of `SETKEY` read back. -/
theorem setkeyLoadsTheKey : Obligations.SetkeyLoadsTheKey := fun k0 k1 k2 k3 _ hs =>
  ⟨fun hp => exec_setkey_idle hs hp k0 k1 k2 k3,
    fun hp => Bool.eq_false_iff.mpr fun hready => hp ((outputs_cmdReady_iff hs).mp hready),
    decode_encode (.setkey k0 k1 k2 k3)⟩

end Sys2Proof.Machine
end

section
/-!
SUPPORT. The arithmetic primitives (41_round_function.md R120 to R124): each as a number or bit by bit, and the laws of
addition and subtraction.
-/

namespace Sys2Proof.Machine

/-! Addition and subtraction (R120 to R122) -/

theorem add32_toNat (a b : Word) : (add32 a b).toNat = (a.toNat + b.toNat) % 2 ^ 32 := BitVec.toNat_add a b

/-- The residue of the difference, never negative (R121). -/
theorem sub32_toNat (a b : Word) : ((sub32 a b).toNat : Int) = ((a.toNat : Int) - (b.toNat : Int)) % 2 ^ 32 := by
  have ha := a.isLt
  have hb := b.isLt
  rw [sub32, BitVec.toNat_sub]
  omega

/-- Subtraction adds the two's complement (R121). -/
theorem sub32_eq_add32_complement (a b : Word) : sub32 a b = add32 a (add32 (xor32 b 0xFFFFFFFF#32) 1#32) := by
  have hcomplement : xor32 b 0xFFFFFFFF#32 = ~~~b := BitVec.xor_allOnes
  rw [hcomplement]
  calc a - b = a + -b := BitVec.sub_eq_add_neg a b
    _ = a + (~~~b + 1#32) := by rw [BitVec.neg_eq_not_add]

@[simp] theorem add32_zero (a : Word) : add32 a 0#32 = a := BitVec.add_zero a

@[simp] theorem sub32_self (a : Word) : sub32 a a = 0#32 := BitVec.sub_self a

@[simp] theorem sub32_add32_cancel (a b : Word) : sub32 (add32 a b) b = a := BitVec.add_sub_cancel a b

@[simp] theorem add32_sub32_cancel (a b : Word) : add32 (sub32 a b) b = a := BitVec.sub_add_cancel a b

/-! The shifts (R123, R124), by any amount -/

theorem shl32_toNat (x : Word) (n : Nat) : (shl32 x n).toNat = x.toNat * 2 ^ n % 2 ^ 32 := by
  rw [shl32, BitVec.toNat_shiftLeft, Nat.shiftLeft_eq]

theorem shr32_toNat (x : Word) (n : Nat) : (shr32 x n).toNat = x.toNat / 2 ^ n := by
  rw [shr32, BitVec.toNat_ushiftRight, Nat.shiftRight_eq_div_pow]

/-- The low `n` bits of a left shift are zeros, and no lost bit comes back there. -/
theorem shl32_getLsbD (x : Word) (n : Nat) {i : Nat} (hi : i < 32) :
    (shl32 x n).getLsbD i = (decide (n ≤ i) && x.getLsbD (i - n)) := by
  rw [shl32, BitVec.getLsbD_shiftLeft, decide_eq_true hi, Bool.true_and, ← decide_not,
    decide_eq_decide.mpr Nat.not_lt]

/-- The high `n` bits of a right shift are zeros, neither lost bits nor copies of the sign bit. -/
theorem shr32_getLsbD (x : Word) (n i : Nat) :
    (shr32 x n).getLsbD i = (decide (i < 32 - n) && x.getLsbD (i + n)) := by
  rw [shr32, BitVec.getLsbD_ushiftRight, Nat.add_comm n i]
  by_cases hi : i < 32 - n
  · rw [decide_eq_true hi, Bool.true_and]
  · rw [decide_eq_false hi, Bool.false_and, BitVec.getLsbD_of_ge x (i + n) (by omega)]

end Sys2Proof.Machine
end

section
/-!
SUPPORT. The round function and the six micro-operations (41_round_function.md R128 to R137). A half-round writes one
half and reads only what it does not write, so its counterpart adds or subtracts the same word.
-/

namespace Sys2Proof.Machine

theorem mix_eq (x : Word) : mix x = ((x <<< 4) ^^^ (x >>> 5)) + x := rfl

theorem roundF_eq (x sk : Word) : roundF x sk = (((x <<< 4) ^^^ (x >>> 5)) + x) ^^^ sk := rfl

/-! What a half-round leaves unchanged -/

@[simp] theorem encA_v1 (k : Key) (w : Work) : (encA k w).v1 = w.v1 := rfl
@[simp] theorem encA_sum (k : Key) (w : Work) : (encA k w).sum = w.sum := rfl
@[simp] theorem encB_v0 (k : Key) (w : Work) : (encB k w).v0 = w.v0 := rfl
@[simp] theorem encB_sum (k : Key) (w : Work) : (encB k w).sum = w.sum := rfl

/-! The micro-operations undo each other (R137) -/

@[simp] theorem decA_encA (k : Key) (w : Work) : decA k (encA k w) = w := by
  rw [decA, encA, sub32_add32_cancel]

@[simp] theorem encA_decA (k : Key) (w : Work) : encA k (decA k w) = w := by
  rw [encA, decA, add32_sub32_cancel]

@[simp] theorem decB_encB (k : Key) (w : Work) : decB k (encB k w) = w := by
  rw [decB, encB, sub32_add32_cancel]

@[simp] theorem encB_decB (k : Key) (w : Work) : encB k (decB k w) = w := by
  rw [encB, decB, add32_sub32_cancel]

@[simp] theorem decS_encS (w : Work) : decS (encS w) = w := by rw [decS, encS, sub32_add32_cancel]

@[simp] theorem encS_decS (w : Work) : encS (decS w) = w := by rw [encS, decS, add32_sub32_cancel]

theorem encA_bijective (k : Key) : Function.Bijective (encA k) :=
  Function.bijective_iff_has_inverse.mpr ⟨decA k, decA_encA k, encA_decA k⟩

theorem encB_bijective (k : Key) : Function.Bijective (encB k) :=
  Function.bijective_iff_has_inverse.mpr ⟨decB k, decB_encB k, encB_decB k⟩

theorem decA_bijective (k : Key) : Function.Bijective (decA k) :=
  Function.bijective_iff_has_inverse.mpr ⟨encA k, encA_decA k, decA_encA k⟩

theorem decB_bijective (k : Key) : Function.Bijective (decB k) :=
  Function.bijective_iff_has_inverse.mpr ⟨encB k, encB_decB k, decB_encB k⟩

end Sys2Proof.Machine
end

section
/-!
The obligations on the arithmetic and the round function (41_round_function.md).
-/

namespace Sys2Proof.Machine

/-- Settles O16: subtraction undoes addition of the same word, and each half-round has its counterpart as inverse. -/
theorem halfRoundsInvert : Obligations.HalfRoundsInvert := fun k w =>
  ⟨decA_encA k w, encA_decA k w, decB_encB k w, encB_decB k w, decS_encS w, encS_decS w,
    encA_v1 k w, encA_sum k w, encB_v0 k w, encB_sum k w,
    encA_bijective k, encB_bijective k, decA_bijective k, decB_bijective k⟩

/-- Settles O9: the residues, and the laws of the group of words. -/
theorem additionAndSubtractionWrap : Obligations.AdditionAndSubtractionWrap :=
  ⟨add32_toNat, BitVec.add_comm, BitVec.add_assoc, add32_zero, sub32_toNat, sub32_eq_add32_complement, sub32_self⟩

/-- Settles O10: both cancellation laws. -/
theorem subtractionUndoesAddition : Obligations.SubtractionUndoesAddition := fun a b =>
  ⟨sub32_add32_cancel a b, add32_sub32_cancel a b⟩

/-- Settles O11: the shifts by any amount, at the amounts of the cipher. -/
theorem shiftsDropBitsAndFillWithZeros : Obligations.ShiftsDropBitsAndFillWithZeros := fun x =>
  ⟨shl32_toNat x 4, shr32_toNat x 5, shr32_toNat x 11, fun _ hi => shl32_getLsbD x 4 hi,
    fun i _ => shr32_getLsbD x 5 i, fun i _ => shr32_getLsbD x 11 i⟩

/-- Settles O12: the formulas are the definitions, and each corner case is computed. -/
theorem roundFunctionFormula : Obligations.RoundFunctionFormula :=
  ⟨mix_eq, roundF_eq, by decide, by decide, by decide, by decide, by decide⟩

/-- Settles O15: the pseudocode is the definition of each micro-operation. -/
theorem microOperationsFollowThePseudocode : Obligations.MicroOperationsFollowThePseudocode := fun _ _ _ _ =>
  ⟨rfl, rfl, rfl, rfl, rfl, rfl⟩

end Sys2Proof.Machine
end

section
/-!
SUPPORT. The two operations as inverses of each other (42_encrypt.md R152, R160, 43_decrypt.md R172, R179, R180): each
round undoes the other's, and the 32 rounds of one end where those of the other start.
-/

namespace Sys2Proof.Machine

theorem repeatTimes_eq_iterate {α : Type} (f : α → α) (n : Nat) : repeatTimes f n = f^[n] := by
  induction n with
  | zero => rfl
  | succ n ih => rw [Function.iterate_succ, ← ih]; rfl

/-- Repeating an inverse as often undoes the repetition. -/
theorem leftInverse_repeatTimes {α : Type} {f g : α → α} (h : Function.LeftInverse g f) (n : Nat) :
    Function.LeftInverse (repeatTimes g n) (repeatTimes f n) := by
  rw [repeatTimes_eq_iterate, repeatTimes_eq_iterate]
  exact h.iterate n

/-! One round -/

@[simp] theorem decRound_encRound (k : Key) (w : Work) : decRound k (encRound k w) = w := by
  rw [decRound, encRound, decB_encB, decS_encS, decA_encA]

@[simp] theorem encRound_decRound (k : Key) (w : Work) : encRound k (decRound k w) = w := by
  rw [encRound, decRound, encA_decA, encS_decS, encB_decB]

/-! `SUM` over many rounds (40_key_schedule.md R107) -/

/-- Encrypt rounds take `SUM` up the schedule, whatever the block. -/
theorem repeatTimes_encRound_sum (k : Key) (n i : Nat) {w : Work} (h : w.sum = sumAt i) :
    (repeatTimes (encRound k) n w).sum = sumAt (i + n) := by
  induction n with
  | zero => exact h
  | succ n ih =>
    rw [repeatTimes_succ_outer, ← Nat.add_assoc, ← add32_sumAt_delta, ← ih]
    rfl

/-- Decrypt rounds take `SUM` down the schedule, whatever the block. -/
theorem repeatTimes_decRound_sum (k : Key) (n i : Nat) {w : Work} (h : w.sum = sumAt (i + n)) :
    (repeatTimes (decRound k) n w).sum = sumAt i := by
  induction n generalizing w with
  | zero => exact h
  | succ n ih =>
    have hround : (decRound k w).sum = sub32 w.sum delta := rfl
    rw [repeatTimes_succ]
    exact ih (by rw [hround, h, ← Nat.add_assoc, sub32_sumAt_succ_delta])

/-! The whole operation -/

namespace Operation

/-- The operation that undoes `d`. -/
def inverse (d : Operation) : Operation :=
  match d with
  | .encrypt => .decrypt
  | .decrypt => .encrypt

theorem inverse_round_round (d : Operation) (k : Key) (w : Work) : d.inverse.round k (d.round k w) = w := by
  cases d with
  | encrypt => exact decRound_encRound k w
  | decrypt => exact encRound_decRound k w

/-- An operation leaves `SUM` where the other one starts. -/
theorem rounds_sum (d : Operation) (k : Key) (b : Block) :
    (repeatTimes (d.round k) 32 (d.start b)).sum = d.inverse.sumInit := by
  cases d with
  | encrypt => exact (repeatTimes_encRound_sum k 32 0 sumEncInit_eq).trans sumDecInit_eq.symm
  | decrypt => exact (repeatTimes_decRound_sum k 32 0 sumDecInit_eq).trans sumEncInit_eq.symm

/-- The 32 rounds of an operation end where the other one starts on the result. -/
theorem rounds_eq_inverse_start (d : Operation) (k : Key) (b : Block) :
    repeatTimes (d.round k) 32 (d.start b) = d.inverse.start (d.cipher k b) := by
  rw [cipher_eq]
  change _ = Work.mk _ _ d.inverse.sumInit
  rw [← rounds_sum d k b]

/-- From there the rounds of the other one peel those of `d` off, the last first. -/
theorem inverse_cipher_cipher (d : Operation) (k : Key) (b : Block) :
    d.inverse.cipher k (d.cipher k b) = b := by
  have hpeel : Function.LeftInverse (repeatTimes (d.inverse.round k) 32) (repeatTimes (d.round k) 32) :=
    leftInverse_repeatTimes (inverse_round_round d k) 32
  rw [cipher_eq d.inverse, ← rounds_eq_inverse_start, hpeel]
  rfl

end Operation

theorem dec_enc (k : Key) (b : Block) : dec k (enc k b) = b := Operation.inverse_cipher_cipher .encrypt k b

theorem enc_dec (k : Key) (b : Block) : enc k (dec k b) = b := Operation.inverse_cipher_cipher .decrypt k b

theorem enc_bijective (k : Key) : Function.Bijective (enc k) :=
  Function.bijective_iff_has_inverse.mpr ⟨dec k, dec_enc k, enc_dec k⟩

end Sys2Proof.Machine
end

section
/-!
SUPPORT. An operation as the pins give it (42_encrypt.md R150, R154, R155, 43_decrypt.md R170, R174, R175): its issue, what
one of its round steps writes, and its run from the offer to the result.
-/

namespace Sys2Proof.Machine.Operation

/-- An operation issues where the core is idle with a key loaded (42_encrypt.md R150, 43_decrypt.md R170). -/
theorem exec_command_idle {d : Operation} {s : State} (b : Block) (hs : s.resetSeen = true) (hp : s.phase = .idle)
    (hk : s.keyValid = true) : exec (d.command b) s = .next (s.startOperation d.phase b d.sumInit) := by
  rw [exec_command, issueWhenReady_issues hs hp fun _ => hk]

/-- A running core runs one of the two operations. -/
theorem exists_running {s : State} (h : s.phase = .enc ∨ s.phase = .dec) : ∃ d : Operation, s.phase = d.phase := by
  obtain h | h := h
  · exact ⟨.encrypt, h⟩
  · exact ⟨.decrypt, h⟩

/-- An operation that runs is not done. -/
theorem phase_ne_done (d : Operation) : d.phase ≠ .done := by cases d <;> exact nofun

/-- What a round step leaves unchanged (41_round_function.md R138). -/
theorem roundStep_frame (d : Operation) (s : State) :
    (d.roundStep s).k = s.k ∧ (d.roundStep s).keyValid = s.keyValid ∧ (d.roundStep s).taken = s.taken ∧
      (d.roundStep s).resetSeen = s.resetSeen := ⟨rfl, rfl, rfl, rfl⟩

theorem roundStep_work (d : Operation) (s : State) : (d.roundStep s).work = d.round s.k s.work := rfl

theorem roundStep_rnd (d : Operation) (s : State) : (d.roundStep s).rnd = s.rnd + 1#6 := rfl

/-- The phase ends with round 32 and with no other. -/
theorem roundStep_phase (d : Operation) (s : State) :
    (d.roundStep s).phase = if s.rnd = 31#6 then .done else s.phase := by
  have hlast : s.rnd + 1#6 = 32#6 ↔ s.rnd = 31#6 := by bv_omega
  exact if_congr hlast rfl rfl

/-- From the offer of the operation in `IDLE` with a key loaded to its result, at every pace of the rounds. -/
theorem run_offered {d : Operation} {s : State} {a e : Edge} {es rest : List Edge} {b : Block}
    (hs : s.resetSeen = true) (hp : s.phase = .idle) (hk : s.keyValid = true) (hin : s.inputs = a :: (es ++ e :: rest))
    (ha : OffersCommand a (d.command b)) (hes : ∀ x ∈ es, x.rst = false) (hdue : (es.filter (·.roundDue)).length = 31)
    (her : e.rst = false) (hed : e.roundDue = true) :
    Sys2Proof.core.run (es.length + 2) s =
      .next { s with v := d.cipher s.k b, sum := d.inverse.sumInit, rnd := 32#6, phase := .done, inputs := rest,
                     edge := s.edge + es.length + 2 } := by
  have hissue : s.Issues (d.command b) := ⟨hs, hp, State.pins_cons hin ▸ ha⟩
  have hrounds : RoundsComplete (es ++ [e]) :=
    ⟨List.forall_mem_append.mpr ⟨hes, List.forall_mem_singleton.mpr her⟩, es, e, rfl, hed, hdue⟩
  have htail : s.inputs.tail = es ++ [e] ++ rest := by rw [hin, List.tail_cons, List.append_assoc]; rfl
  have hrun := run_computes hissue hk hrounds htail
  rwa [List.length_append, List.length_singleton, rounds_sum] at hrun

end Sys2Proof.Machine.Operation
end

section
/-!
SUPPORT. The loops of 42_encrypt.md R151 and 43_decrypt.md R171 as folds over triples of bit vectors.
-/

namespace Sys2Proof.Machine

/-- The working registers as the triple of 42_encrypt.md R152. -/
def tripleOf (w : Work) : Word × Word × Word := (w.v0, w.v1, w.sum)

/-- A loop body on the registers that is `g` on the triples is, repeated, the fold of `g`. -/
theorem tripleOf_repeatTimes {f : Work → Work} {g : Word × Word × Word → Word × Word × Word} {n : Nat} {w : Work}
    (h : Function.Semiconj tripleOf f g) :
    tripleOf (repeatTimes f n w) = (List.range n).foldl (fun x _ => g x) (tripleOf w) := by
  rw [List.foldl_const, List.length_range, repeatTimes_eq_iterate]
  exact h.iterate_right n w

/-- The block in the first two components of a triple. -/
def blockOf (r : Word × Word × Word) : Block := { v0 := r.1, v1 := r.2.1 }

theorem enc_eq_blockOf (k : Key) (b : Block) :
    enc k b = blockOf (tripleOf (repeatTimes (encBody k) 32 (Operation.encrypt.start b))) := rfl

theorem dec_eq_blockOf (k : Key) (b : Block) :
    dec k b = blockOf (tripleOf (repeatTimes (decBody k) 32 (Operation.decrypt.start b))) := rfl

end Sys2Proof.Machine
end

section
/-!
The obligations on encryption (42_encrypt.md).
-/

namespace Sys2Proof.Machine

/-- Settles O47, by the run of an operation from its offer, and the take that follows. -/
theorem encryptRunComputesEnc : Obligations.EncryptRunComputesEnc := by
  intro s a e f es rest v0 v1 hs hp hk hin har hav hdecode hes hdue her hed d
  refine ⟨?_, fun hfr hfy => step_takes (s := d) ⟨hs, rfl, hfr, hfy⟩⟩
  exact Operation.run_offered (d := .encrypt) (b := { v0 := v0, v1 := v1 }) hs hp hk hin ⟨har, hav, hdecode⟩ hes hdue
    her hed

/-- Settles O17: the round is its three micro-operations, and the 32 rounds end where `Dec` starts on the result. -/
theorem encIsThirtyTwoEncryptRounds : Obligations.EncIsThirtyTwoEncryptRounds :=
  ⟨fun _ _ _ _ => rfl, fun k v0 v1 => Operation.rounds_eq_inverse_start .encrypt k { v0 := v0, v1 := v1 }⟩

/-- Settles O22: `Enc` and `Dec` undo each other. -/
theorem encryptionIsABijection : Obligations.EncryptionIsABijection := fun k =>
  ⟨enc_bijective k, dec_enc k, enc_dec k⟩

/-- Settles O26, by the issue rule with a key loaded. -/
theorem encryptIssues : Obligations.EncryptIssues := fun v0 v1 _ hs hp hk =>
  Operation.exec_command_idle (d := .encrypt) { v0 := v0, v1 := v1 } hs hp hk

/-- Settles O34: both kinds of round step are the round step of the operation that runs. -/
theorem roundStepFrame : Obligations.RoundStepFrame := by
  intro s hs hr hp
  obtain ⟨d, hd⟩ := Operation.exists_running hp
  refine ⟨Operation.step_pending hs hd hr, fun hdue => ⟨d.roundStep s.tick, Operation.step_round hs hd hr hdue, ?_⟩⟩
  obtain ⟨hk, hkv, htaken, hseen⟩ := d.roundStep_frame s.tick
  have hphase : (d.roundStep s.tick).phase = if s.rnd = 31#6 then .done else s.phase := d.roundStep_phase s.tick
  have hdone : (d.roundStep s.tick).phase = .done ↔ s.rnd = 31#6 := by
    have hrunning : s.phase ≠ .done := hd ▸ d.phase_ne_done
    simp [hphase, hrunning]
  refine ⟨d.roundStep_rnd s.tick, hdone, fun hn => by rw [hphase, if_neg hn], hk, hkv, htaken, hseen.trans hs, ?_, ?_⟩
  · intro henc
    cases d with
    | encrypt => exact Operation.roundStep_work .encrypt s.tick
    | decrypt => exact nomatch henc.symm.trans hd
  · intro hdec
    cases d with
    | encrypt => exact nomatch hdec.symm.trans hd
    | decrypt => exact Operation.roundStep_work .decrypt s.tick

/-- Settles O19: each body on bit vectors is the loop body on the registers, step for step. -/
theorem encAndDecAreTheSourcesLoops : Obligations.EncAndDecAreTheSourcesLoops := by
  refine ⟨fun k b => ?_, fun k b => ?_⟩
  · extract_lets r
    have hr : tripleOf (repeatTimes (encBody k) 32 (Operation.encrypt.start b)) = r := tripleOf_repeatTimes fun _ => rfl
    rw [enc_eq_blockOf, hr, blockOf]
  · extract_lets r
    have hr : tripleOf (repeatTimes (decBody k) 32 (Operation.decrypt.start b)) = r := tripleOf_repeatTimes fun _ => rfl
    rw [dec_eq_blockOf, hr, blockOf]

end Sys2Proof.Machine
end

section
/-!
SUPPORT. What an operation computes whatever else the host does (43_decrypt.md R178): the key stands while no `SETKEY`
issues, and from the issue of an operation to its take its rounds go on or its result waits.
-/

namespace Sys2Proof.Machine

/-! The take -/

/-- The whole effect of a take (10_state.md R43). -/
theorem step_takes_eq {s : State} {e : Edge} {rest : List Edge} (hin : s.inputs = e :: rest) (h : s.Takes) :
    step s =
      .next { s with inputs := rest, edge := s.edge + 1, phase := .idle,
                     taken := s.taken ++ [blockVector s.v] } := by
  have htail : s.inputs.tail = rest := by rw [hin]; rfl
  rw [step_takes h, ← htail]
  rfl

/-! The key between two moves -/

/-- After the first reset, with `key` in the key registers. -/
def State.HoldsKey (s : State) (key : Key) : Prop := s.resetSeen = true ∧ s.k = key

theorem holdsKey_of_issues_setkey {k : Key} {s t : State} (hissue : s.Issues (.setkey k.k0 k.k1 k.k2 k.k3))
    (hstep : step s = .next t) : t.HoldsKey k := by
  have ⟨hs, hp, _⟩ := hissue
  rw [step_issues hissue, exec_setkey_idle (s := s.tick) hs hp] at hstep
  cases hstep
  exact ⟨hs, rfl⟩

/-- A step that is no reset and no issue of a `SETKEY` keeps the key (10_state.md R23). -/
theorem step_keeps_holdsKey {k : Key} {s t : State} (hleave : s.LeavesKey) (hkey : s.HoldsKey k)
    (hstep : step s = .next t) : t.HoldsKey k := by
  obtain ⟨hr, hno⟩ := hleave
  obtain ⟨hs, hk⟩ := hkey
  obtain ⟨-, -, hseen, -⟩ := everyStepUsesOneEdge s t hstep
  obtain ⟨hsame, -⟩ | ⟨hp, hv, ho, -, -⟩ := onlySetkeyChangesTheKey s t hs hr hstep
  · exact ⟨hseen hs, hsame.trans hk⟩
  · exact absurd ⟨hs, hp, hr, hv, decode_commandOf_setkey ho⟩ (hno _ _ _ _)

theorem run_keeps_holdsKey {k : Key} {s t : State} (hrun : RunWithin State.LeavesKey s t) (hkey : s.HoldsKey k) :
    t.HoldsKey k :=
  runWithin_invariant hrun (fun _ _ hleave hkey hstep => step_keeps_holdsKey hleave hkey hstep) hkey

/-! An operation between its issue and its take -/

namespace Operation

/-- From the issue of `d` on `b` under `k` to the take: `RND` of its rounds are done, or its result waits. -/
def Pending (d : Operation) (k : Key) (b : Block) (s : State) : Prop :=
  (s.phase = d.phase ∧ s.rnd.toNat < 32 ∧ s.work = repeatTimes (d.round k) s.rnd.toNat (d.start b)) ∨
  (s.phase = .done ∧ s.v = d.cipher k b)

theorem pending_done {d : Operation} {k : Key} {b : Block} {s : State} (h : d.Pending k b s) (hp : s.phase = .done) :
    s.v = d.cipher k b := by
  obtain ⟨hrun, -⟩ | ⟨-, hv⟩ := h
  · exact absurd (hrun.symm.trans hp) d.phase_ne_done
  · exact hv

/-- An operation that issues has no round done. -/
theorem pending_of_issues {d : Operation} {k : Key} {b : Block} {s t : State} (hissue : s.Issues (d.command b))
    (hkey : s.HoldsKey k) (hstep : step s = .next t) : t.HoldsKey k ∧ d.Pending k b t := by
  have ⟨hs, hp, _⟩ := hissue
  rw [step_issues hissue] at hstep
  have hkv : s.keyValid = true := by
    by_contra hno
    rw [exec_command, issueWhenReady_noKey (s := s.tick) hs hp (Bool.eq_false_iff.mpr hno)] at hstep
    cases hstep
  rw [exec_command_idle (s := s.tick) b hs hp hkv] at hstep
  cases hstep
  exact ⟨hkey, .inl ⟨rfl, Nat.zero_lt_succ 31, rfl⟩⟩

/-- A round step is one more round, and the 32nd leaves the result. -/
theorem pending_roundStep {d : Operation} {k : Key} {b : Block} {s : State} (hk : s.k = k) (hp : s.phase = d.phase)
    (hn : s.rnd.toNat < 32) (hw : s.work = repeatTimes (d.round k) s.rnd.toNat (d.start b)) :
    d.Pending k b (d.roundStep s) := by
  have hwork : (d.roundStep s).work = repeatTimes (d.round k) (s.rnd.toNat + 1) (d.start b) := by
    rw [roundStep_work, hk, hw, repeatTimes_succ_outer]
  obtain hlt | hlast := Nat.lt_or_eq_of_le (Nat.le_of_lt_succ hn)
  · have hcount : (d.roundStep s).rnd.toNat = s.rnd.toNat + 1 := succ_rnd_toNat hn
    exact .inl ⟨(roundStep_phase_of_lt d hlt).trans hp, by omega, by rw [hcount, hwork]⟩
  · rw [hlast] at hwork
    refine .inr ⟨if_pos ((succ_rnd_eq_32_iff s.rnd).mpr hlast), ?_⟩
    rw [cipher_eq, ← hwork]
    rfl

/-- A step that is no reset, no issue of a `SETKEY` and no take keeps the operation pending. -/
theorem step_keeps_pending {d : Operation} {k : Key} {b : Block} {s t : State} (hleave : s.LeavesKeyAndResult)
    (hkey : s.HoldsKey k) (hpending : d.Pending k b s) (hstep : step s = .next t) : d.Pending k b t := by
  obtain ⟨⟨hr, -⟩, hno⟩ := hleave
  obtain ⟨hs, hk⟩ := hkey
  obtain ⟨hp, hn, hw⟩ | ⟨hp, hv⟩ := hpending
  · cases hd : s.pins.roundDue with
    | true =>
      rw [step_round hs hp hr hd] at hstep
      cases hstep
      exact pending_roundStep (s := s.tick) hk hp hn hw
    | false =>
      rw [step_pending hs hp hr hd] at hstep
      cases hstep
      exact .inl ⟨hp, hn, hw⟩
  · have hy : s.pins.resReady = false := Bool.eq_false_iff.mpr fun hy => hno ⟨hs, hp, hr, hy⟩
    rw [step_done_untaken hs hr hp hy] at hstep
    cases hstep
    exact .inr ⟨hp, hv⟩

theorem run_keeps_pending {d : Operation} {k : Key} {b : Block} {s t : State}
    (hrun : RunWithin State.LeavesKeyAndResult s t) (h : s.HoldsKey k ∧ d.Pending k b s) :
    t.HoldsKey k ∧ d.Pending k b t :=
  runWithin_invariant (Q := fun u => u.HoldsKey k ∧ d.Pending k b u) hrun
    (fun _ _ hleave ⟨hkey, hpending⟩ hstep =>
      ⟨step_keeps_holdsKey hleave.1 hkey hstep, step_keeps_pending hleave hkey hpending hstep⟩) h

/-- Whatever happens between the issue of an operation and its take, what the host takes is the cipher of the block. -/
theorem taken_eq_cipher {d : Operation} {k : Key} {b c : Block} {s t u w : State} (hkey : s.HoldsKey k)
    (hissue : s.Issues (d.command b)) (hfirst : step s = .next t) (hrun : RunWithin State.LeavesKeyAndResult t u)
    (htakes : u.Takes) (hlast : step u = .next w) (hc : w.taken = u.taken ++ [blockVector c]) :
    c = d.cipher k b ∧ w.HoldsKey k := by
  obtain ⟨hkeyU, hpending⟩ := run_keeps_pending hrun (pending_of_issues hissue hkey hfirst)
  have ⟨_, hp, _⟩ := htakes
  rw [step_takes htakes] at hlast
  cases hlast
  have hvector : blockVector u.v = blockVector c := List.singleton_inj.mp (List.append_cancel_left hc)
  have hv : u.v = c := Function.LeftInverse.injective blockOfVector_blockVector hvector
  exact ⟨hv ▸ pending_done hpending hp, hkeyU⟩

/-- The offer of an operation, the edges of its rounds and its take, one after the other. -/
theorem run_offered_to_take {d : Operation} {s : State} {a f : Edge} {es : List Edge} {b : Block}
    (hs : s.resetSeen = true) (hp : s.phase = .idle) (hkv : s.keyValid = true) (hin : s.inputs = a :: (es ++ [f]))
    (ha : OffersCommand a (d.command b)) (hes : RoundsComplete es) (hf : AcceptsResult f) :
    ∃ t, Sys2Proof.core.run (es.length + 2) s = .next t ∧ t.taken = s.taken ++ [blockVector (d.cipher s.k b)] ∧
      t.HoldsKey s.k ∧ t.keyValid = true ∧ t.phase = .idle := by
  have hissue : s.Issues (d.command b) := ⟨hs, hp, State.pins_cons hin ▸ ha⟩
  have htail : s.inputs.tail = es ++ ([] ++ f :: []) := by rw [hin]; rfl
  exact ⟨_, run_operation hissue hkv hes htail nofun hf, rfl, ⟨hs, rfl⟩, hkv, rfl⟩

/-- The same after the offer of a `SETKEY`, from any idle state. -/
theorem run_setkey_to_take {d : Operation} {s : State} {a0 a1 f : Edge} {es : List Edge} {k : Key} {b : Block}
    (hs : s.resetSeen = true) (hp : s.phase = .idle) (hin : s.inputs = a0 :: a1 :: (es ++ [f]))
    (ha0 : OffersCommand a0 (.setkey k.k0 k.k1 k.k2 k.k3)) (ha1 : OffersCommand a1 (d.command b))
    (hes : RoundsComplete es) (hf : AcceptsResult f) :
    ∃ t, Sys2Proof.core.run (es.length + 3) s = .next t ∧ t.taken = s.taken ++ [blockVector (d.cipher k b)] ∧
      t.HoldsKey k ∧ t.keyValid = true ∧ t.phase = .idle := by
  have hissue : s.Issues (.setkey k.k0 k.k1 k.k2 k.k3) := ⟨hs, hp, State.pins_cons hin ▸ ha0⟩
  have htail : s.inputs.tail = [] ++ a1 :: (es ++ [f]) := by rw [hin]; rfl
  have hsteps : es.length + 3 = ([] : List Edge).length + 1 + (es.length + 2) := by rw [List.length_nil]; omega
  rw [hsteps, run_add _ (run_setkey hissue htail nofun)]
  exact run_offered_to_take hs hp rfl rfl ha1 hes hf

end Operation

end Sys2Proof.Machine
end

section
/-!
The obligations on decryption (43_decrypt.md).
-/

namespace Sys2Proof.Machine

/-- Settles O18: the round is its three micro-operations, and the 32 rounds end where `Enc` starts on the result. -/
theorem decIsThirtyTwoDecryptRounds : Obligations.DecIsThirtyTwoDecryptRounds :=
  ⟨fun _ _ _ _ => rfl, fun k v0 v1 => Operation.rounds_eq_inverse_start .decrypt k { v0 := v0, v1 := v1 }⟩

/-- Settles O20: each decrypt round peels the last encrypt round off, and `SUM` ends where `Dec` starts. -/
theorem decryptRoundsPeelEncryptRounds : Obligations.DecryptRoundsPeelEncryptRounds :=
  ⟨decRound_encRound, fun k v0 v1 =>
    ⟨Operation.rounds_sum .encrypt k { v0 := v0, v1 := v1 }, leftInverse_repeatTimes (decRound_encRound k) 32 _⟩⟩

/-- Settles O21: the other order, for a round and for the whole operation. -/
theorem encryptUndoesDecrypt : Obligations.EncryptUndoesDecrypt := ⟨encRound_decRound, enc_dec⟩

/-- Settles O48, by the run of an operation from its offer, and the take that follows. -/
theorem decryptRunComputesDec : Obligations.DecryptRunComputesDec := by
  intro s a e f es rest v0 v1 hs hp hk hin har hav hdecode hes hdue her hed d
  refine ⟨?_, fun hfr hfy => step_takes_eq (s := d) rfl ⟨hs, rfl, hfr, hfy⟩⟩
  exact Operation.run_offered (d := .decrypt) (b := { v0 := v0, v1 := v1 }) hs hp hk hin ⟨har, hav, hdecode⟩ hes hdue
    her hed

/-- Settles O27, by the issue rule with a key loaded. -/
theorem decryptIssues : Obligations.DecryptIssues := fun v0 v1 _ hs hp hk =>
  Operation.exec_command_idle (d := .decrypt) { v0 := v0, v1 := v1 } hs hp hk

/-- Settles O49: each take delivers the cipher of its block under the one key, and `Dec` undoes `Enc`. -/
theorem decryptUndoesEncrypt : Obligations.DecryptUndoesEncrypt := by
  refine ⟨dec_enc, ?_, ?_⟩
  · intro k b c p s0 t0 s1 t1 s2 t2 s3 t3 s4 t4 hset hset' hgap henc henc' hrun htake htake' hc hgap2 hdec hdec' hrun2
      htake2 htake2' hp
    have hkey : s1.HoldsKey k := run_keeps_holdsKey hgap (holdsKey_of_issues_setkey hset hset')
    obtain ⟨rfl, hkey2⟩ := Operation.taken_eq_cipher (d := .encrypt) hkey henc henc' hrun htake htake' hc
    have hkey3 : s3.HoldsKey k := run_keeps_holdsKey hgap2 hkey2
    obtain ⟨rfl, -⟩ := Operation.taken_eq_cipher (d := .decrypt) hkey3 hdec hdec' hrun2 htake2 htake2' hp
    exact dec_enc k b
  · intro s k b a0 a1 f es hs hp ha0 ha1 hes hf
    obtain ⟨t, hrun, htaken, ⟨hseen, rfl⟩, hkv, hidle⟩ := Operation.run_setkey_to_take (d := .encrypt)
      (s := { s with inputs := a0 :: a1 :: (es ++ [f]) }) hs hp rfl ha0 ha1 hes hf
    refine ⟨t, enc t.k b, hrun, htaken, fun a2 f2 es2 ha2 hes2 hf2 => ?_⟩
    obtain ⟨u, hrun2, htaken2, -, -, hidle2⟩ := Operation.run_offered_to_take (d := .decrypt)
      (s := { t with inputs := a2 :: (es2 ++ [f2]) }) hseen hidle hkv rfl ha2 hes2 hf2
    have hback : Operation.decrypt.cipher t.k (enc t.k b) = b := dec_enc t.k b
    refine ⟨u, hrun2, ?_, hidle2⟩
    rw [htaken2, htaken, hback, List.append_assoc]
    rfl

end Sys2Proof.Machine
end

section
/-!
SUPPORT. The rows of the step relation taken at a reset and before the first reset, and which edges the spec describes
(60_exceptions.md R193, R197, 70_reset_and_hazards.md R223).
-/

namespace Sys2Proof.Machine

/-! The rows that the state after the first reset does not decide -/

/-- The reset step, whatever the other pins are (60_exceptions.md R197). -/
theorem step_reset {s : State} (hr : s.pins.rst = true) : step s = .next s.tick.resetStep := by
  rw [step, edgeEvent_reset hr]

/-- A quiet edge before the first reset (70_reset_and_hazards.md R223). -/
theorem step_stillUnspecified {s : State} (hr : s.pins.rst = false) (hs : s.resetSeen = false)
    (hv : s.pins.cmdValid = false) (hy : s.pins.resReady = false) : step s = .next s.tick.stayUnspecified := by
  simp [step, edgeEvent, hr, hs, hv, hy]

/-- A move of the host before the first reset (70_reset_and_hazards.md R223). -/
theorem step_tooEarly {s : State} (hr : s.pins.rst = false) (hs : s.resetSeen = false)
    (h : s.pins.cmdValid = true ∨ s.pins.resReady = true) : step s = .refused .beforeFirstReset := by
  simp [step, edgeEvent, hr, hs, h]

/-- After the first reset every edge at which no command issues has a next state (10_state.md R40). -/
theorem step_without_issue {s : State} (hs : s.resetSeen = true) (hr : s.pins.rst = false)
    (h : s.phase = .idle → s.pins.cmdValid = false) : ∃ t, step s = .next t := by
  cases hp : s.phase with
  | idle => exact ⟨_, step_idle_quiet hs hp hr (h hp)⟩
  | enc =>
    cases hd : s.pins.roundDue with
    | false => exact ⟨_, step_round_pending hs hr (.inl hp) hd⟩
    | true => exact ⟨_, step_encRound hs hr hp hd⟩
  | dec =>
    cases hd : s.pins.roundDue with
    | false => exact ⟨_, step_round_pending hs hr (.inr hp) hd⟩
    | true => exact ⟨_, step_decRound hs hr hp hd⟩
  | done =>
    cases hy : s.pins.resReady with
    | false => exact ⟨_, step_done_untaken hs hr hp hy⟩
    | true => exact ⟨_, step_takes ⟨hs, hp, hr, hy⟩⟩

/-! The described edges -/

/-- What the spec asks of a command that issues: a known opcode, and a key for an operation (60_exceptions.md R193). -/
def IssueIsDescribed (s : State) (e : Edge) : Prop :=
  e.cmdOp ≠ 0#2 ∧ (e.cmdOp = 2#2 ∨ e.cmdOp = 3#2 → s.keyValid = true)

theorem edgeIsDescribed_reset {s : State} {e : Edge} (hr : e.rst = true) : EdgeIsDescribed s e := .inl hr

theorem edgeIsDescribed_live_iff {s : State} {e : Edge} (hr : e.rst = false) (hs : s.resetSeen = true) :
    EdgeIsDescribed s e ↔ (s.phase = .idle → e.cmdValid = true → IssueIsDescribed s e) := by
  simp [EdgeIsDescribed, IssueIsDescribed, hr, hs]

theorem edgeIsDescribed_before_reset_iff {s : State} {e : Edge} (hr : e.rst = false) (hs : s.resetSeen = false) :
    EdgeIsDescribed s e ↔ e.cmdValid = false ∧ e.resReady = false := by
  simp [EdgeIsDescribed, hr, hs]

/-- The four opcodes (30_encoding.md R71), as the issue of a command tells them apart. -/
theorem opcode_cases (op : BitVec 2) : op = 0#2 ∨ op = 1#2 ∨ op = 2#2 ∨ op = 3#2 := by
  revert op
  decide

/-- A described command that issues has a next state (10_state.md R40). -/
theorem step_described_issue {s : State} (hs : s.resetSeen = true) (hr : s.pins.rst = false) (hp : s.phase = .idle)
    (hv : s.pins.cmdValid = true) (h : IssueIsDescribed s s.pins) : ∃ t, step s = .next t := by
  obtain ⟨hknown, hkey⟩ := h
  obtain ho | ho | ho | ho := opcode_cases s.pins.cmdOp
  · exact absurd ho hknown
  · exact ⟨_, step_setkey hs hr hp hv ho⟩
  · exact ⟨_, step_encrypt hs hr hp hv ho (hkey (.inl ho))⟩
  · exact ⟨_, step_decrypt hs hr hp hv ho (hkey (.inr ho))⟩

/-- A command that issues and is not described is refused (30_encoding.md R82, 60_exceptions.md R192). -/
theorem step_undescribed_issue {s : State} (hs : s.resetSeen = true) (hr : s.pins.rst = false) (hp : s.phase = .idle)
    (hv : s.pins.cmdValid = true) (h : ¬ IssueIsDescribed s s.pins) : ∃ r, step s = .refused r := by
  by_cases ho : s.pins.cmdOp = 0#2
  · exact ⟨_, step_reserved hs hr hp hv ho⟩
  · obtain ⟨hoperation, hkey⟩ := Classical.not_imp.mp fun hkey => h ⟨ho, hkey⟩
    exact ⟨_, step_operation_noKey hs hr hp hv hoperation (Bool.eq_false_iff.mpr hkey)⟩

/-- Where the spec describes the edge there is a next state. -/
theorem step_next_of_described {s : State} (h : EdgeIsDescribed s s.pins) : ∃ t, step s = .next t := by
  cases hr : s.pins.rst with
  | true => exact ⟨_, step_reset hr⟩
  | false =>
    cases hs : s.resetSeen with
    | false =>
      obtain ⟨hv, hy⟩ := (edgeIsDescribed_before_reset_iff hr hs).mp h
      exact ⟨_, step_stillUnspecified hr hs hv hy⟩
    | true =>
      by_cases hissue : s.phase = .idle ∧ s.pins.cmdValid = true
      · obtain ⟨hp, hv⟩ := hissue
        exact step_described_issue hs hr hp hv ((edgeIsDescribed_live_iff hr hs).mp h hp hv)
      · exact step_without_issue hs hr fun hp => Bool.eq_false_iff.mpr fun hv => hissue ⟨hp, hv⟩

/-- Where the spec does not describe the edge the step is refused. -/
theorem step_refused_of_not_described {s : State} (h : ¬ EdgeIsDescribed s s.pins) : ∃ r, step s = .refused r := by
  have hr : s.pins.rst = false := Bool.eq_false_iff.mpr fun hr => h (edgeIsDescribed_reset hr)
  cases hs : s.resetSeen with
  | false =>
    rw [edgeIsDescribed_before_reset_iff hr hs, not_and_or, Bool.not_eq_false, Bool.not_eq_false] at h
    exact ⟨_, step_tooEarly hr hs h⟩
  | true =>
    rw [edgeIsDescribed_live_iff hr hs, Classical.not_imp, Classical.not_imp] at h
    obtain ⟨hp, hv, hissue⟩ := h
    exact step_undescribed_issue hs hr hp hv hissue

end Sys2Proof.Machine
end

section
/-!
SUPPORT. What a step of a platform does to each of its cores (60_exceptions.md R206).
-/

namespace Sys2Proof.Machine

/-- The inversion of a step of a platform that answers a next platform. -/
theorem platformStep_next_cases {p m : List State} {i : Nat} (h : platformStep p i = .next m) :
    (p[i]? = none ∧ m = p) ∨ ∃ s t, p[i]? = some s ∧ step s = .next t ∧ m = p.set i t := by
  unfold platformStep at h
  split at h
  next hnone =>
    cases h
    exact .inl ⟨hnone, rfl⟩
  next s hsome =>
    split at h
    next t hstep =>
      cases h
      exact .inr ⟨s, t, hsome, hstep, rfl⟩
    next => cases h
    next => cases h

/-- A run of a platform that answers a next platform is its first step and the rest of the run. -/
theorem platformRun_cons_next {p q : List State} {i : Nat} {rest : List Nat}
    (h : platformRun p (i :: rest) = .next q) : ∃ m, platformStep p i = .next m ∧ platformRun m rest = .next q := by
  rw [platformRun] at h
  split at h
  next m hstep => exact ⟨m, hstep, h⟩
  next => cases h
  next => cases h

theorem platformStep_length {p m : List State} {i : Nat} (h : platformStep p i = .next m) : m.length = p.length := by
  obtain ⟨-, rfl⟩ | ⟨_, _, -, -, rfl⟩ := platformStep_next_cases h
  · rfl
  · exact List.length_set

/-- The core that steps takes its own step. -/
theorem platformStep_same {p m : List State} {i : Nat} {s : State} (h : platformStep p i = .next m)
    (hs : p[i]? = some s) : ∃ t, step s = .next t ∧ m[i]? = some t := by
  obtain ⟨hnone, -⟩ | ⟨s', t, hs', hstep, rfl⟩ := platformStep_next_cases h
  · exact absurd (hs.symm.trans hnone) nofun
  · obtain rfl : s = s' := Option.some.inj (hs.symm.trans hs')
    obtain ⟨hlt, -⟩ := List.getElem?_eq_some_iff.mp hs
    exact ⟨t, hstep, List.getElem?_set_self hlt⟩

/-- The other cores stay as they are. -/
theorem platformStep_other {p m : List State} {i j : Nat} (h : platformStep p i = .next m) (hne : i ≠ j) :
    m[j]? = p[j]? := by
  obtain ⟨-, rfl⟩ | ⟨_, _, -, -, rfl⟩ := platformStep_next_cases h
  · rfl
  · exact List.getElem?_set_ne hne

theorem platformRun_length {schedule : List Nat} {p q : List State} (h : platformRun p schedule = .next q) :
    q.length = p.length := by
  induction schedule generalizing p with
  | nil =>
    cases h
    rfl
  | cons i rest ih =>
    obtain ⟨m, hstep, hrun⟩ := platformRun_cons_next h
    exact (ih hrun).trans (platformStep_length hstep)

/-- In a run of a platform a core takes as many of its own steps as the schedule names it. -/
theorem platformRun_getElem {schedule : List Nat} {p q : List State} {j : Nat} {s : State}
    (h : platformRun p schedule = .next q) (hs : p[j]? = some s) :
    ∃ t, q[j]? = some t ∧ Sys2Proof.core.run (schedule.count j) s = .next t := by
  induction schedule generalizing p s with
  | nil =>
    cases h
    exact ⟨s, hs, run_zero s⟩
  | cons i rest ih =>
    obtain ⟨m, hstep, hrun⟩ := platformRun_cons_next h
    by_cases hij : i = j
    · subst hij
      obtain ⟨u, hu, hm⟩ := platformStep_same hstep hs
      rw [List.count_cons_self, run_succ _ hu]
      exact ih hrun hm
    · rw [List.count_cons_of_ne hij]
      exact ih hrun ((platformStep_other hstep hij).trans hs)

end Sys2Proof.Machine
end

section
/-!
The obligations on refusals, reset and several cores (60_exceptions.md).
-/

namespace Sys2Proof.Machine

/-- Settles O46, by the kind of edge: a reset, before the first reset, an issue, or any other. -/
theorem refusedExactlyInTheRefusedSituations : Obligations.RefusedExactlyInTheRefusedSituations := fun _ =>
  ⟨step_next_of_described, step_refused_of_not_described⟩

/-- Settles O55, by induction on the schedule, for the number of cores and for each of them. -/
theorem instancesAreIndependent : Obligations.InstancesAreIndependent := fun _ _ _ h =>
  ⟨platformRun_length h, fun _ _ hs => platformRun_getElem h hs⟩

/-- Settles O28: both operations go through the issue rule, and the row of the step relation without a key. -/
theorem operationWithoutKeyIsRefused : Obligations.OperationWithoutKeyIsRefused := fun _ hs hp hk =>
  ⟨fun _ _ => ⟨issueWhenReady_noKey hs hp hk, issueWhenReady_noKey hs hp hk⟩,
    fun hr hv ho => step_operation_noKey hs hr hp hv ho hk⟩

/-- Settles O40: the outputs follow from the phase and the key flag that the reset step leaves. -/
theorem resetWins : Obligations.ResetWins := by
  intro s e es hr
  refine ⟨_, step_reset (s := { s with inputs := e :: es }) hr, rfl, rfl, rfl, rfl, rfl, ?_, ?_, outputs_keyValid rfl⟩
  · exact (outputs_cmdReady_iff rfl).mpr rfl
  · exact Bool.eq_false_iff.mpr fun hv => nomatch (outputs_resValid_iff rfl).mp hv

end Sys2Proof.Machine
end

section
/-!
SUPPORT. Two machines side by side (70_reset_and_hazards.md R222, R241): where their control state and their pins but
the operand agree they take the same row of the step relation (10_state.md R40), so a relation between them is kept by
the step if each row keeps it, and by a run if the step keeps it.
-/

namespace Sys2Proof.Machine

/-! Two answers -/

/-- Both machines go on, to states that `R` relates, or both are refused for the same reason. -/
def GoTogether (R : State → State → Prop) (a b : Host.Outcome State Fault Refusal) : Prop :=
  (∀ s', a = .next s' → ∃ t', b = .next t' ∧ R s' t') ∧ ∀ r, a = .refused r → b = .refused r

section Answers

variable {R S : State → State → Prop} {a b : Host.Outcome State Fault Refusal}

theorem goTogether_next {s t : State} (ha : a = .next s) (hb : b = .next t) (h : R s t) : GoTogether R a b := by
  subst ha hb
  exact ⟨fun s' hs' => ⟨t, rfl, by cases hs'; exact h⟩, nofun⟩

theorem goTogether_refused {r : Refusal} (ha : a = .refused r) (hb : b = .refused r) : GoTogether R a b := by
  subst ha hb
  exact ⟨nofun, fun _ => id⟩

/-- What the answers `s'` and `t'` satisfy may be used to relate them further. -/
theorem GoTogether.imp (h : GoTogether R a b) (himp : ∀ s' t', a = .next s' → b = .next t' → R s' t' → S s' t') :
    GoTogether S a b := by
  refine ⟨fun s' ha => ?_, h.2⟩
  obtain ⟨t', hb, hR⟩ := h.1 s' ha
  exact ⟨t', hb, himp s' t' ha hb hR⟩

end Answers

/-! Many steps -/

/-- A relation that every step within the host's list keeps is kept by every run within it. -/
theorem goTogether_run {R : State → State → Prop}
    (keep : ∀ s t, R s t → s.inputs ≠ [] → GoTogether R (step s) (step t)) {n : Nat} {s t : State} (h : R s t)
    (hn : n ≤ s.inputs.length) : GoTogether R (Sys2Proof.core.run n s) (Sys2Proof.core.run n t) := by
  induction n generalizing s t with
  | zero => exact goTogether_next (run_zero s) (run_zero t) h
  | succ n ih =>
    obtain ⟨hnext, hrefused⟩ := keep s t h (List.ne_nil_of_length_pos (by omega))
    cases hs : step s with
    | next u =>
      obtain ⟨u', hu', hR⟩ := hnext u hs
      obtain ⟨hinputs, -⟩ := everyStepUsesOneEdge s u hs
      rw [run_succ n hs, run_succ n hu']
      exact ih hR (by rw [hinputs, List.length_tail]; omega)
    | fault r => cases r
    | refused r => exact goTogether_refused (run_succ_refused n hs) (run_succ_refused n (hrefused r hs))

/-! One step -/

/-- What decides the row of the step relation is the same in both machines, the operand and the registers left out. -/
structure State.SameMove (s t : State) : Prop where
  resetSeen : s.resetSeen = t.resetSeen
  control : s.resetSeen = true → s.phase = t.phase ∧ s.keyValid = t.keyValid
  pins : SameButOperand s.pins t.pins

/-- `R` relates the two machines after every row that both of them can take (10_state.md R40). -/
structure RowsKeep (R : State → State → Prop) (s t : State) : Prop where
  reset : R s.tick.resetStep t.tick.resetStep
  stayUnspecified : s.resetSeen = false → R s.tick.stayUnspecified t.tick.stayUnspecified
  loadKey : s.resetSeen = true → s.phase = .idle →
    R (s.tick.loadKey (keyOfVector s.pins.cmdData)) (t.tick.loadKey (keyOfVector t.pins.cmdData))
  startOperation (d : Operation) : s.resetSeen = true → s.keyValid = true →
    R (s.tick.startOperation d.phase (blockOfVector (s.pins.cmdData.extractLsb' 0 64)) d.sumInit)
      (t.tick.startOperation d.phase (blockOfVector (t.pins.cmdData.extractLsb' 0 64)) d.sumInit)
  roundStep (d : Operation) : s.resetSeen = true → s.phase = d.phase → R (d.roundStep s.tick) (d.roundStep t.tick)
  takeResult : s.resetSeen = true → s.phase = .done → R s.tick.takeResult t.tick.takeResult
  hold : R s.tick t.tick

/-- The opcode of an operation says which one it is, whatever the operand (30_encoding.md R70, R74). -/
theorem exists_operation_of_opcode {op : BitVec 2} (h : op = 2#2 ∨ op = 3#2) :
    ∃ d : Operation, ∀ e : Edge, e.cmdOp = op →
      decode (commandOf e) = d.command (blockOfVector (e.cmdData.extractLsb' 0 64)) := by
  obtain rfl | rfl := h
  · exact ⟨.encrypt, fun _ => decode_commandOf_encrypt⟩
  · exact ⟨.decrypt, fun _ => decode_commandOf_decrypt⟩

section Rows

variable {R : State → State → Prop} {s t : State} (same : s.SameMove t) (keep : RowsKeep R s t)
include same keep

/-- Before the first reset (70_reset_and_hazards.md R223). -/
theorem goTogether_before_reset (hr : s.pins.rst = false) (hs : s.resetSeen = false) :
    GoTogether R (step s) (step t) := by
  obtain ⟨hseen, -, hrst, hvalid, -, hready, -⟩ := same
  rw [hrst] at hr
  have ht : t.resetSeen = false := hseen ▸ hs
  by_cases hmove : s.pins.cmdValid = true ∨ s.pins.resReady = true
  · exact goTogether_refused (step_tooEarly (hrst.trans hr) hs hmove)
      (step_tooEarly hr ht (by rwa [← hvalid, ← hready]))
  · rw [not_or, Bool.not_eq_true, Bool.not_eq_true] at hmove
    obtain ⟨hv, hy⟩ := hmove
    exact goTogether_next (step_stillUnspecified (hrst.trans hr) hs hv hy)
      (step_stillUnspecified hr ht (hvalid ▸ hv) (hready ▸ hy)) (keep.stayUnspecified hs)

/-- A command that issues in both machines (10_state.md R42). -/
theorem goTogether_issue (hs : s.resetSeen = true) (hr : s.pins.rst = false) (hp : s.phase = .idle)
    (hv : s.pins.cmdValid = true) : GoTogether R (step s) (step t) := by
  obtain ⟨hseen, hcontrol, hrst, hvalid, hop, -, -⟩ := same
  obtain ⟨hphase, hkey⟩ := hcontrol hs
  have hs' : t.resetSeen = true := hseen ▸ hs
  have hr' : t.pins.rst = false := hrst ▸ hr
  have hp' : t.phase = .idle := hphase ▸ hp
  have hv' : t.pins.cmdValid = true := hvalid ▸ hv
  obtain ho | ho | ho := opcode_cases s.pins.cmdOp
  · exact goTogether_refused (step_reserved hs hr hp hv ho) (step_reserved hs' hr' hp' hv' (hop ▸ ho))
  · exact goTogether_next (step_setkey hs hr hp hv ho) (step_setkey hs' hr' hp' hv' (hop ▸ ho)) (keep.loadKey hs hp)
  · cases hk : s.keyValid with
    | false =>
      exact goTogether_refused (step_operation_noKey hs hr hp hv ho hk)
        (step_operation_noKey hs' hr' hp' hv' (hop ▸ ho) (hkey ▸ hk))
    | true =>
      obtain ⟨d, hd⟩ := exists_operation_of_opcode ho
      exact goTogether_next (Operation.step_issues_command ⟨hs, hp, hr, hv, hd _ rfl⟩ hk)
        (Operation.step_issues_command ⟨hs', hp', hr', hv', hd _ hop.symm⟩ (hkey ▸ hk)) (keep.startOperation d hs hk)

/-- After the first reset and without a reset `PHASE` decides (60_exceptions.md R198). -/
theorem goTogether_live (hs : s.resetSeen = true) (hr : s.pins.rst = false) : GoTogether R (step s) (step t) := by
  have ⟨hseen, hcontrol, hrst, hvalid, _, hready, hdue⟩ := same
  obtain ⟨hphase, -⟩ := hcontrol hs
  have hs' : t.resetSeen = true := hseen ▸ hs
  have hr' : t.pins.rst = false := hrst ▸ hr
  have hrunning : ∀ d : Operation, s.phase = d.phase → GoTogether R (step s) (step t) := by
    intro d hp
    have hp' : t.phase = d.phase := hphase ▸ hp
    cases hd : s.pins.roundDue with
    | false =>
      exact goTogether_next (Operation.step_pending hs hp hr hd) (Operation.step_pending hs' hp' hr' (hdue ▸ hd))
        keep.hold
    | true =>
      exact goTogether_next (Operation.step_round hs hp hr hd) (Operation.step_round hs' hp' hr' (hdue ▸ hd))
        (keep.roundStep d hs hp)
  cases hp : s.phase with
  | enc => exact hrunning .encrypt hp
  | dec => exact hrunning .decrypt hp
  | idle =>
    cases hv : s.pins.cmdValid with
    | false =>
      exact goTogether_next (step_idle_quiet hs hp hr hv) (step_idle_quiet hs' (hphase ▸ hp) hr' (hvalid ▸ hv))
        keep.hold
    | true => exact goTogether_issue same keep hs hr hp hv
  | done =>
    have hp' : t.phase = .done := hphase ▸ hp
    cases hy : s.pins.resReady with
    | false =>
      exact goTogether_next (step_done_untaken hs hr hp hy) (step_done_untaken hs' hr' hp' (hready ▸ hy)) keep.hold
    | true =>
      exact goTogether_next (step_takes ⟨hs, hp, hr, hy⟩) (step_takes ⟨hs', hp', hr', hready ▸ hy⟩)
        (keep.takeResult hs hp)

/-- Two machines that make the same move go on together in whatever relation every row keeps. -/
theorem goTogether_step : GoTogether R (step s) (step t) := by
  cases hr : s.pins.rst with
  | true =>
    have ⟨hrst, _⟩ := same.pins
    exact goTogether_next (step_reset hr) (step_reset (hrst ▸ hr)) keep.reset
  | false =>
    cases hs : s.resetSeen with
    | false => exact goTogether_before_reset same keep hr hs
    | true => exact goTogether_live same keep hs hr

end Rows

end Sys2Proof.Machine
end

section
/-!
SUPPORT. The two relations between machines: each is kept by every row of the step relation (10_state.md R40). Where a
row writes a register the two agree on what it reads (`SameButUnspecified`), or what it writes to `SUM` and `RND` does
not depend on the rest (`SameControl`).
-/

namespace Sys2Proof.Machine

/-! What may differ is unspecified (70_reset_and_hazards.md R222) -/

theorem pins_eq_of_inputs {s t : State} (h : s.inputs = t.inputs) (hne : s.inputs ≠ []) : s.pins = t.pins := by
  obtain ⟨e, es, hs⟩ := List.exists_cons_of_ne_nil hne
  rw [State.pins_cons hs, State.pins_cons (h ▸ hs)]

theorem SameButOperand.refl (e : Edge) : SameButOperand e e := ⟨rfl, rfl, rfl, rfl, rfl⟩

/-- An operation that runs is not idle. -/
theorem Operation.phase_ne_idle (d : Operation) : d.phase ≠ .idle := by cases d <;> exact nofun

/-- Whether a round is the last depends on `RND` alone (42_encrypt.md R156). -/
theorem Operation.roundStep_phase_congr (d : Operation) {s t : State} (hphase : s.phase = t.phase)
    (hrnd : s.rnd = t.rnd) : (d.roundStep s).phase = (d.roundStep t).phase := by
  rw [d.roundStep_phase, d.roundStep_phase, hphase, hrnd]

theorem rowsKeep_sameButUnspecified {s t : State} (h : s.SameButUnspecified t) (hpins : s.pins = t.pins) :
    RowsKeep State.SameButUnspecified s t := by
  obtain ⟨hinputs, htaken, hseen, hlive⟩ := h
  have htail : s.inputs.tail = t.inputs.tail := congrArg List.tail hinputs
  constructor
  case reset => exact ⟨htail, htaken, rfl, fun _ => ⟨rfl, rfl, nofun, fun hp => absurd rfl hp⟩⟩
  case stayUnspecified =>
    intro hs
    exact ⟨htail, htaken, hseen, fun hs' => absurd (hs.symm.trans hs') nofun⟩
  case loadKey =>
    intro hs hp
    obtain ⟨hphase, -⟩ := hlive hs
    exact ⟨htail, htaken, hseen, fun _ => ⟨hphase, rfl, fun _ => by rw [hpins]; rfl, fun hp' => absurd hp hp'⟩⟩
  case startOperation =>
    intro d hs hk
    obtain ⟨-, hkv, hkey, -⟩ := hlive hs
    exact ⟨htail, htaken, hseen, fun _ => ⟨rfl, hkv, hkey, fun _ => ⟨hkey hk, by rw [hpins]; rfl, rfl, rfl⟩⟩⟩
  case roundStep =>
    intro d hs hp
    obtain ⟨hphase, hkv, -, hregs⟩ := hlive hs
    obtain ⟨hk, hv, hsum, hrnd⟩ := hregs (hp ▸ d.phase_ne_idle)
    have hround : d.round s.k s.work = d.round t.k t.work := by rw [hk, State.work, State.work, hv, hsum]
    refine ⟨htail, htaken, hseen, fun _ => ⟨?_, hkv, fun _ => hk, fun _ => ⟨hk, ?_, congrArg Work.sum hround, ?_⟩⟩⟩
    · exact d.roundStep_phase_congr (s := s.tick) (t := t.tick) hphase hrnd
    · exact congrArg (fun w : Work => Block.mk w.v0 w.v1) hround
    · exact congrArg (· + 1#6) hrnd
  case takeResult =>
    intro hs hp
    obtain ⟨-, hkv, hkey, hregs⟩ := hlive hs
    obtain ⟨-, hv, -⟩ := hregs (by rw [hp]; nofun)
    exact ⟨htail, by simp [htaken, hv], hseen, fun _ => ⟨rfl, hkv, hkey, fun hp' => absurd rfl hp'⟩⟩
  case hold => exact ⟨htail, htaken, hseen, hlive⟩

theorem step_sameButUnspecified {s t : State} (h : s.SameButUnspecified t) (hne : s.inputs ≠ []) :
    GoTogether State.SameButUnspecified (step s) (step t) := by
  have ⟨hinputs, _, hseen, hlive⟩ := h
  have hpins := pins_eq_of_inputs hinputs hne
  have hmove : s.SameMove t := ⟨hseen, fun hs => (hlive hs).imp_right And.left, hpins ▸ .refl s.pins⟩
  exact goTogether_step hmove (rowsKeep_sameButUnspecified h hpins)

/-! The control state (70_reset_and_hazards.md R241) -/

/-- What a round makes of `SUM` depends on `SUM` alone (40_key_schedule.md R109). -/
theorem Operation.round_sum_congr (d : Operation) (k l : Key) {w x : Work} (h : w.sum = x.sum) :
    (d.round k w).sum = (d.round l x).sum := by
  cases d with
  | encrypt => exact congrArg (add32 · delta) h
  | decrypt => exact congrArg (sub32 · delta) h

theorem rowsKeep_sameControl {s t : State} (h : s.SameControl t) : RowsKeep State.SameControl s t := by
  obtain ⟨hseen, htaken, hlive⟩ := h
  constructor
  case reset => exact ⟨rfl, htaken, fun _ => ⟨rfl, rfl, fun hp => absurd rfl hp⟩⟩
  case stayUnspecified => exact fun hs => ⟨hseen, htaken, fun hs' => absurd (hs.symm.trans hs') nofun⟩
  case loadKey =>
    intro hs hp
    obtain ⟨hphase, -⟩ := hlive hs
    exact ⟨hseen, htaken, fun _ => ⟨hphase, rfl, fun hp' => absurd hp hp'⟩⟩
  case startOperation =>
    intro d hs hk
    obtain ⟨-, hkv, -⟩ := hlive hs
    exact ⟨hseen, htaken, fun _ => ⟨rfl, hkv, fun _ => ⟨rfl, rfl⟩⟩⟩
  case roundStep =>
    intro d hs hp
    obtain ⟨hphase, hkv, hregs⟩ := hlive hs
    obtain ⟨hrnd, hsum⟩ := hregs (hp ▸ d.phase_ne_idle)
    exact ⟨hseen, htaken, fun _ => ⟨d.roundStep_phase_congr (s := s.tick) (t := t.tick) hphase hrnd, hkv,
      fun _ => ⟨congrArg (· + 1#6) hrnd, d.round_sum_congr s.k t.k hsum⟩⟩⟩
  case takeResult =>
    intro hs hp
    obtain ⟨-, hkv, -⟩ := hlive hs
    exact ⟨hseen, by simp [htaken], fun _ => ⟨rfl, hkv, fun hp' => absurd rfl hp'⟩⟩
  case hold => exact ⟨hseen, htaken, hlive⟩

theorem step_sameControl {s t : State} (h : s.SameControl t) (hpins : SameButOperand s.pins t.pins) :
    GoTogether State.SameControl (step s) (step t) := by
  have ⟨hseen, _, hlive⟩ := h
  have hmove : s.SameMove t := ⟨hseen, fun hs => (hlive hs).imp_right And.left, hpins⟩
  exact goTogether_step hmove (rowsKeep_sameControl h)

/-- The same control state, and hosts that differ at most in the operands they will offer. -/
def State.SameControlAndHost (s t : State) : Prop := s.SameControl t ∧ List.Forall₂ SameButOperand s.inputs t.inputs

theorem sameButOperand_pins {s t : State} (h : List.Forall₂ SameButOperand s.inputs t.inputs) (hne : s.inputs ≠ []) :
    SameButOperand s.pins t.pins := by
  obtain ⟨e, es, hs⟩ := List.exists_cons_of_ne_nil hne
  rw [hs, List.forall₂_cons_left_iff] at h
  obtain ⟨f, fs, hef, -, ht⟩ := h
  rwa [State.pins_cons hs, State.pins_cons ht]

theorem step_sameControlAndHost {s t : State} (h : s.SameControlAndHost t) (hne : s.inputs ≠ []) :
    GoTogether State.SameControlAndHost (step s) (step t) := by
  obtain ⟨hcontrol, hhost⟩ := h
  refine (step_sameControl hcontrol (sameButOperand_pins hhost hne)).imp fun s' t' hs ht hcontrol' => ⟨hcontrol', ?_⟩
  obtain ⟨hs', -⟩ := everyStepUsesOneEdge s s' hs
  obtain ⟨ht', -⟩ := everyStepUsesOneEdge t t' ht
  rw [hs', ht', ← List.drop_one, ← List.drop_one]
  exact List.forall₂_drop 1 hhost

end Sys2Proof.Machine
end

section
/-!
SUPPORT. A running operation reaches `DONE` (70_reset_and_hazards.md R240): in every state there is a coming edge at
which a round completes, in the host's list or past it at whatever fair pace, and 32 rounds end the operation.
-/

namespace Sys2Proof.Machine

/-! Edges that pass -/

/-- Many edges that only pass use up as many pin samples. -/
theorem tick_iterate (n : Nat) (s : State) :
    State.tick^[n] s = { s with inputs := s.inputs.drop n, edge := s.edge + n } := by
  induction n generalizing s with
  | zero => rfl
  | succ n ih => rw [Function.iterate_succ_apply, ih, State.tick, List.drop_tail, Nat.add_assoc, Nat.add_comm 1]

/-- Past the end of the host's list a round completes at some later edge (R240). -/
theorem exists_roundDue_past_list {s : State} (hin : s.inputs = []) (n : Nat) :
    ∃ m, n ≤ m ∧ ({ s with edge := m } : State).pins.roundDue = true := by
  obtain ⟨m, hnm, hdue⟩ := pace_is_fair n
  exact ⟨m, hnm, by rw [State.pins_nil (s := { s with edge := m }) hin, hdue]⟩

/-- In every state there is a coming edge at which a running round completes, the host's list ended or not. -/
theorem exists_roundDue_after (s : State) : ∃ n, (State.tick^[n] s).pins.roundDue = true := by
  obtain ⟨m, hm, hdue⟩ := exists_roundDue_past_list (s := { s with inputs := [] }) rfl (s.edge + s.inputs.length)
  have hpast : s.inputs.drop (m - s.edge) = [] := List.drop_eq_nil_of_le (by omega)
  have hedge : s.edge + (m - s.edge) = m := by omega
  exact ⟨m - s.edge, by rw [tick_iterate, hpast, hedge, hdue]⟩

/-- Where the host's list holds no reset, none is on the pins. -/
theorem pins_rst_of_no_reset {s : State} (h : ∀ x ∈ s.inputs, x.rst = false) : s.pins.rst = false := by
  cases hin : s.inputs with
  | nil => rw [State.pins_nil hin]; rfl
  | cons e es => rw [State.pins_cons hin]; exact h e (hin ▸ List.mem_cons_self)

/-! Until -/

/-- Some run from `s` ends in a state that meets `Q`, and every state before it meets `P`. -/
def State.RunsUntil (P Q : State → Prop) (s : State) : Prop :=
  ∃ n t, Sys2Proof.core.run n s = .next t ∧ Q t ∧ ∀ m < n, ∃ u, Sys2Proof.core.run m s = .next u ∧ P u

theorem runsUntil_of_now {P Q : State → Prop} {s : State} (h : Q s) : s.RunsUntil P Q :=
  ⟨0, s, run_zero s, h, nofun⟩

theorem runsUntil_of_step {P Q : State → Prop} {s t : State} (hs : P s) (hstep : step s = .next t)
    (h : t.RunsUntil P Q) : s.RunsUntil P Q := by
  obtain ⟨n, u, hrun, hu, hbefore⟩ := h
  refine ⟨n + 1, u, by rw [run_succ n hstep, hrun], hu, fun m hm => ?_⟩
  cases m with
  | zero => exact ⟨s, run_zero s, hs⟩
  | succ m => rw [run_succ m hstep]; exact hbefore m (by omega)

/-! The rounds of a running operation -/

/-- A running operation has a round left (10_state.md R45). -/
theorem rnd_lt_of_inv {s : State} (h : s.Inv) (hs : s.resetSeen = true) (hp : s.phase = .enc ∨ s.phase = .dec) :
    s.rnd.toNat < 32 := by
  obtain hp | hp := hp
  · obtain ⟨hlt, -⟩ := (inv_enc_iff hs hp).mp h
    exact hlt
  · obtain ⟨hlt, -⟩ := (inv_dec_iff hs hp).mp h
    exact hlt

namespace Operation

/-- `d` is running with `i` rounds completed, and the host's list holds no reset. -/
structure RunningAt (d : Operation) (i : Nat) (s : State) : Prop where
  resetSeen : s.resetSeen = true
  phase : s.phase = d.phase
  rnd : s.rnd.toNat = i
  noReset : ∀ x ∈ s.inputs, x.rst = false

section Running

variable {d : Operation} {i : Nat} {s : State} (h : d.RunningAt i s)
include h

theorem runningAt_tick : d.RunningAt i s.tick :=
  ⟨h.resetSeen, h.phase, h.rnd, fun x hx => h.noReset x (List.mem_of_mem_tail hx)⟩

theorem runningAt_roundStep (hi : i < 31) : d.RunningAt (i + 1) (d.roundStep s) :=
  ⟨h.resetSeen, (d.roundStep_phase_of_lt (h.rnd.trans_lt hi)).trans h.phase,
    by rw [roundStep_rnd, succ_rnd_toNat (by rw [h.rnd]; omega), h.rnd], h.noReset⟩

theorem runningAt_step_round (hd : s.pins.roundDue = true) : step s = .next (d.roundStep s.tick) :=
  step_round h.resetSeen h.phase (pins_rst_of_no_reset h.noReset) hd

/-- The next round completes, however long it takes, and until it does the operation is running. -/
theorem runsUntil_of_round {Q : State → Prop}
    (hround : ∀ t, d.RunningAt i t → (d.roundStep t.tick).RunsUntil (·.phase = d.phase) Q) :
    s.RunsUntil (·.phase = d.phase) Q := by
  obtain ⟨n, hn⟩ := exists_roundDue_after s
  induction n generalizing s with
  | zero => exact runsUntil_of_step h.phase (runningAt_step_round h hn) (hround s h)
  | succ n ih =>
    cases hd : s.pins.roundDue with
    | true => exact runsUntil_of_step h.phase (runningAt_step_round h hd) (hround s h)
    | false =>
      exact runsUntil_of_step h.phase (step_pending h.resetSeen h.phase (pins_rst_of_no_reset h.noReset) hd)
        (ih (runningAt_tick h) hn)

/-- The rounds that are left complete, and the last one ends the operation (42_encrypt.md R156). -/
theorem runsUntil_done (hi : i ≤ 31) :
    s.RunsUntil (·.phase = d.phase) (fun t => t.phase = .done ∧ t.rnd = 32#6) := by
  induction hi using Nat.decreasingInduction generalizing s with
  | self =>
    refine runsUntil_of_round h fun t ht => runsUntil_of_now ?_
    have hlast : t.rnd + 1#6 = 32#6 := (succ_rnd_eq_32_iff t.rnd).mpr ht.rnd
    exact ⟨if_pos hlast, hlast⟩
  | of_succ i hi ih => exact runsUntil_of_round h fun t ht => ih (runningAt_roundStep (runningAt_tick ht) hi)

end Running

end Operation

end Sys2Proof.Machine
end

section
/-!
SUPPORT. What else the obligations on reset, hazards and runs cite: the status outputs that are 0, the phase after a
round step, an instruction before the first reset, and a run that is over (70_reset_and_hazards.md R221 to R237).
-/

namespace Sys2Proof.Machine

theorem outputs_cmdReady_eq_false {s : State} (hs : s.resetSeen = true) (hp : s.phase ≠ .idle) :
    s.outputs.cmdReady = false :=
  Bool.eq_false_iff.mpr fun h => hp ((outputs_cmdReady_iff hs).mp h)

theorem outputs_resValid_eq_false {s : State} (hs : s.resetSeen = true) (hp : s.phase ≠ .done) :
    s.outputs.resValid = false :=
  Bool.eq_false_iff.mpr fun h => hp ((outputs_resValid_iff hs).mp h)

/-- A round step leaves the phase or ends the operation (42_encrypt.md R154, 43_decrypt.md R174). -/
theorem Operation.roundStep_phase_or (d : Operation) (s : State) :
    (d.roundStep s).phase = s.phase ∨ (d.roundStep s).phase = .done := by
  rw [d.roundStep_phase]
  split
  · exact .inr rfl
  · exact .inl rfl

/-- Before the first reset no instruction has a meaning (70_reset_and_hazards.md R223). -/
theorem exec_before_reset (i : Instr) {s : State} (hs : s.resetSeen = false) : ∃ r, exec i s = .refused r := by
  cases i with
  | setkey | encrypt | decrypt => exact ⟨_, issueWhenReady_early hs⟩
  | reserved00 => exact ⟨_, exec_reserved00 s⟩

/-- Once a run is over only the edges go on (70_reset_and_hazards.md R237). -/
theorem run_over (n : Nat) {s : State} (hs : s.resetSeen = true) (hover : s.RunOver) :
    Sys2Proof.core.run n s = .next { s with edge := s.edge + n } := by
  obtain ⟨hin, hp⟩ := hover
  induction n generalizing s with
  | zero => exact run_zero s
  | succ n ih =>
    have hpins := State.pins_nil hin
    have htick : s.tick = { s with edge := s.edge + 1 } := by rw [State.tick, hin]; rfl
    have hstep : step s = .next { s with edge := s.edge + 1 } :=
      htick ▸ step_idle_quiet hs hp (by rw [hpins]; rfl) (by rw [hpins]; rfl)
    rw [run_succ n hstep, ih (s := { s with edge := s.edge + 1 }) hs hin hp, Nat.add_assoc, Nat.add_comm 1]

end Sys2Proof.Machine
end

section
/-!
The obligations on reset, hazards and runs (70_reset_and_hazards.md).
-/

namespace Sys2Proof.Machine

/-- Settles O52: every row keeps the relation, so every step and every run within the list does. -/
theorem unspecifiedContentsNeverMatter : Obligations.UnspecifiedContentsNeverMatter := by
  refine ⟨fun s t h hne => step_sameButUnspecified h hne, fun n s t h hn => ?_⟩
  refine (goTogether_run (fun _ _ => step_sameButUnspecified) h hn).imp fun s' t' _ _ h' => ⟨h', ?_⟩
  obtain ⟨-, htaken, -⟩ := h'
  exact htaken

/-- Settles O53: every row keeps the control state, whatever the operands, and the key indices are read from `SUM`. -/
theorem controlIgnoresKeyAndBlock : Obligations.ControlIgnoresKeyAndBlock := by
  refine ⟨fun s t e f es fs h hef hs ht => ?_, fun n s t h hhost hn => ?_⟩
  · exact step_sameControl h (by rwa [State.pins_cons hs, State.pins_cons ht])
  · refine (goTogether_run (fun _ _ => step_sameControlAndHost) ⟨h, hhost⟩ hn).imp fun s' t' _ _ ⟨h', _⟩ => ⟨h', ?_⟩
    intro hs hp
    obtain ⟨-, -, hlive⟩ := h'
    obtain ⟨-, -, hregs⟩ := hlive hs
    obtain ⟨-, hsum⟩ := hregs hp
    exact ⟨congrArg idxA hsum, congrArg idxB hsum⟩

/-- Settles O36: nothing happens at any of the edges. -/
theorem untakenResultBlocksTheCore : Obligations.UntakenResultBlocksTheCore := by
  intro es rest s hs hp hin hes
  refine ⟨outputs_cmdReady_eq_false hs (by rw [hp]; nofun), run_hold hin fun e he => ?_⟩
  obtain ⟨hr, hy⟩ := hes e he
  exact edgeEvent_done_untaken hs hp hr hy

/-- Settles O51: the edges up to any one of them complete some rounds and not the last, and the last edge the 32nd. -/
theorem runningOperationReachesDone : Obligations.RunningOperationReachesDone := by
  intro s es rest e _ hs hp hin hr her hd hcount
  obtain ⟨d, hp⟩ := Operation.exists_running hp
  have hn : roundsDue es + s.rnd.toNat = 31 := hcount
  refine ⟨fun m hm => ?_, _, Operation.run_to_done hs hp hin hr her hd (by omega), rfl, ?_⟩
  · have hsplit : s.inputs = es.take m ++ (es.drop m ++ e :: rest) := by
      rw [← List.append_assoc, List.take_append_drop, hin]
    have hdue : roundsDue (es.take m) ≤ roundsDue es := ((List.take_sublist m es).filter _).length_le
    have hrun := Operation.run_rounds hs hp hsplit (fun x hx => hr x (List.mem_of_mem_take hx)) (by omega)
    rw [List.length_take_of_le hm] at hrun
    exact ⟨_, hrun, rfl⟩
  · have hlast : s.rnd + BitVec.ofNat 6 (roundsDue es + 1) = 32#6 := by bv_omega
    rwa [← roundsDue_append_due es hd] at hlast

/-- Settles O54: the edges of the list are quiet, and so are those past its end. -/
theorem finishedRunKeepsItsOutcome : Obligations.FinishedRunKeepsItsOutcome := by
  refine ⟨fun es rest s hs hp hin hes => ⟨run_hold hin fun e he => ?_, rfl⟩, fun n s hs hover => ?_⟩
  · obtain ⟨hr, hv⟩ := hes e he
    exact edgeEvent_idle_quiet hs hp hr hv
  · exact ⟨_, run_over n hs hover, hover, rfl, rfl⟩

/-- Settles O57: each round that is left completes at a coming edge, at which one more is done. -/
theorem runningOperationAlwaysReachesDone : Obligations.RunningOperationAlwaysReachesDone := by
  refine ⟨fun s n hin => exists_roundDue_past_list hin n, fun s hinv hs hp hr => ?_⟩
  obtain ⟨d, hd⟩ := Operation.exists_running hp
  have hrnd : s.rnd.toNat < 32 := rnd_lt_of_inv hinv hs hp
  obtain ⟨n, t, hrun, ⟨hdone, ht⟩, hbefore⟩ := Operation.runsUntil_done ⟨hs, hd, rfl, hr⟩ (Nat.le_of_lt_succ hrnd)
  exact ⟨n, t, hrun, hdone, ht, by rwa [← hd] at hbefore⟩

/-- Settles O41: the reset step is idle without a key, and the other rows of a running or finished core keep or end its
phase. -/
theorem resetAbandonsTheOperation : Obligations.ResetAbandonsTheOperation := by
  refine ⟨fun s hr => ?_, fun s hs hr => ⟨fun hp => ?_, fun hp => ?_⟩⟩
  · refine ⟨_, step_reset hr, rfl, rfl, rfl, ?_, ?_, ?_, ?_, ?_⟩
    · exact outputs_resValid_eq_false rfl nofun
    · exact (outputs_cmdReady_iff rfl).mpr rfl
    · exact outputs_keyValid rfl
    · exact (operationWithoutKeyIsRefused s.tick.resetStep rfl rfl rfl).1
    · exact fun k0 k1 k2 k3 => ⟨_, exec_setkey_idle rfl rfl k0 k1 k2 k3, rfl⟩
  · obtain ⟨d, hd⟩ := Operation.exists_running hp
    cases hdue : s.pins.roundDue with
    | false => exact ⟨_, Operation.step_pending hs hd hr hdue, .inl rfl⟩
    | true => exact ⟨_, Operation.step_round hs hd hr hdue, d.roundStep_phase_or s.tick⟩
  · cases hy : s.pins.resReady with
    | false => exact ⟨_, step_done_untaken hs hr hp hy, .inl hp⟩
    | true => exact ⟨_, step_takes ⟨hs, hp, hr, hy⟩, .inr ⟨rfl, rfl⟩⟩

/-- Settles O42: the rows before the first reset, and the issue rule there. -/
theorem nothingRunsBeforeTheFirstReset : Obligations.NothingRunsBeforeTheFirstReset := fun _ hs =>
  ⟨fun hr hmove => step_tooEarly hr hs hmove, fun i => exec_before_reset i hs,
    fun hr => ⟨_, step_reset hr, rfl, rfl, rfl⟩⟩

end Sys2Proof.Machine
end
